-- ==== Sys2Proof/Word.lean ====
section
/-! DEFINITION. The widths of 00_scope.md R8: bytes, 16-bit words, 12-bit addresses, register numbers. -/

namespace Sys2Proof

/-- One byte: a general register, a timer, `sp`, a memory cell (R8). -/
abbrev Byte := BitVec 8

/-- Sixteen bits: `I`, `pc`, a stack entry, an opcode (R8). -/
abbrev Word := BitVec 16

/-- The field `nnn`, a 12-bit unsigned address (R51). -/
abbrev Addr := BitVec 12

/-- The field `x` or `y`, the number of one of the 16 registers (R13, R51). -/
abbrev RegIx := Fin 16

end Sys2Proof
end

