-- ==== Sys2Proof/Config.lean ====
section
/-! DEFINITION. What the source leaves open (00_scope.md R6): the named parameters, and the random draw. -/

namespace Sys2Proof

/-- The 80 bytes preloaded at `0x000` (R6, R124). -/
abbrev Font := Vector Byte 80

/-- The named parameters of R6, which "the model takes as arguments". State carries one, no operation writes it, and a
statement for every state is a statement for every value of the parameters (log entry 1). -/
structure Config where
  /-- `FONT` (R124, D20). -/
  font : Font
  /-- `KEYWAIT_LATCH_GATES`: whether `Fx0A` needs the latch armed before a release completes it (R99, D11). -/
  keywaitLatchGates : Bool
  /-- `RESET_RETAINS_ROM`: whether `reset` reapplies the last loaded ROM (R128, D18). -/
  resetRetainsRom : Bool
deriving DecidableEq, Repr

/-- FREE VALUE: `Random8`, the byte of the `k`-th draw (R6, R79, D21). It has no body, so no proof can rest on a value of
it (log entry 3). -/
opaque Config.random8 : Nat → Byte

end Sys2Proof
end

