-- ==== Sys2Proof/Machine/Font.lean ====
section
/-! DEFINITION. The default values of the parameters (00_scope.md R6, 70_reset_and_hazards.md R124). -/

namespace Sys2Proof.Machine

/-- The default of `FONT`: glyphs 0 to F, five bytes each, as R124 tables them. PRESUMED: the spec marks the bytes "from general
knowledge, not in source" (log entry 2). -/
def defaultGlyphs : List (List Byte) :=
  [[0xF0, 0x90, 0x90, 0x90, 0xF0],
   [0x20, 0x60, 0x20, 0x20, 0x70],
   [0xF0, 0x10, 0xF0, 0x80, 0xF0],
   [0xF0, 0x10, 0xF0, 0x10, 0xF0],
   [0x90, 0x90, 0xF0, 0x10, 0x10],
   [0xF0, 0x80, 0xF0, 0x10, 0xF0],
   [0xF0, 0x80, 0xF0, 0x90, 0xF0],
   [0xF0, 0x10, 0x20, 0x40, 0x40],
   [0xF0, 0x90, 0xF0, 0x90, 0xF0],
   [0xF0, 0x90, 0xF0, 0x10, 0xF0],
   [0xF0, 0x90, 0xF0, 0x90, 0x90],
   [0xE0, 0x90, 0xE0, 0x90, 0xE0],
   [0xF0, 0x80, 0x80, 0x80, 0xF0],
   [0xE0, 0x90, 0x90, 0x90, 0xE0],
   [0xF0, 0x80, 0xF0, 0x80, 0xF0],
   [0xF0, 0x80, 0xF0, 0x80, 0x80]]

/-- The 80 default bytes in address order: glyph `d` takes `5·d .. 5·d+4` (R124). -/
def defaultFont : Font := Vector.ofFn fun a => ((defaultGlyphs.getD (a.val / 5) []).getD (a.val % 5) 0)

/-- The parameters at the defaults of R6. -/
def defaultConfig : Config := { font := defaultFont, keywaitLatchGates := false, resetRetainsRom := false }

end Sys2Proof.Machine
end

