-- ==== Sys2Proof/Syntax.lean ====
section
/-! DEFINITION. The 34 instructions of 30_encoding.md R56, one constructor for each row of spec/opcode_table.json, in the table's order. -/

namespace Sys2Proof

/-- One constructor per opcode row. Operands are the fields of R51: registers `x` and `y`, the byte `kk`, the address
`nnn`, and the sprite height `n`, a count that `Instr.wf` bounds. -/
inductive Instr where
  /-- `00E0` CLS (R88). -/
  | cls
  /-- `00EE` RET (R59). -/
  | ret
  /-- `1nnn` JP addr (R60). -/
  | jp (nnn : Addr)
  /-- `2nnn` CALL addr (R61). -/
  | call (nnn : Addr)
  /-- `3xkk` SE Vx, byte (R62). -/
  | seByte (x : RegIx) (kk : Byte)
  /-- `4xkk` SNE Vx, byte (R63). -/
  | sneByte (x : RegIx) (kk : Byte)
  /-- `5xy0` SE Vx, Vy (R64). -/
  | seReg (x y : RegIx)
  /-- `9xy0` SNE Vx, Vy (R65). -/
  | sneReg (x y : RegIx)
  /-- `6xkk` LD Vx, byte (R68). -/
  | ldByte (x : RegIx) (kk : Byte)
  /-- `7xkk` ADD Vx, byte (R69). -/
  | addByte (x : RegIx) (kk : Byte)
  /-- `8xy0` LD Vx, Vy (R70). -/
  | ldReg (x y : RegIx)
  /-- `8xy1` OR Vx, Vy (R71). -/
  | orReg (x y : RegIx)
  /-- `8xy2` AND Vx, Vy (R72). -/
  | andReg (x y : RegIx)
  /-- `8xy3` XOR Vx, Vy (R73). -/
  | xorReg (x y : RegIx)
  /-- `8xy4` ADD Vx, Vy (R74). -/
  | addReg (x y : RegIx)
  /-- `8xy5` SUB Vx, Vy (R75). -/
  | sub (x y : RegIx)
  /-- `8xy6` SHR Vx, Vy (R76). -/
  | shr (x y : RegIx)
  /-- `8xy7` SUBN Vx, Vy (R77). -/
  | subn (x y : RegIx)
  /-- `8xyE` SHL Vx, Vy (R78). -/
  | shl (x y : RegIx)
  /-- `Annn` LD I, addr (R81). -/
  | ldI (nnn : Addr)
  /-- `Bnnn` JP V0, addr (R66). -/
  | jpV0 (nnn : Addr)
  /-- `Cxkk` RND Vx, byte (R79). -/
  | rnd (x : RegIx) (kk : Byte)
  /-- `Dxyn` DRW Vx, Vy, nibble (R89). -/
  | drw (x y : RegIx) (n : Nat)
  /-- `Ex9E` SKP Vx (R94). -/
  | skp (x : RegIx)
  /-- `ExA1` SKNP Vx (R95). -/
  | sknp (x : RegIx)
  /-- `Fx07` LD Vx, DT (R96). -/
  | ldVxDT (x : RegIx)
  /-- `Fx0A` LD Vx, K (R97). -/
  | ldVxK (x : RegIx)
  /-- `Fx15` LD DT, Vx (R100). -/
  | ldDTVx (x : RegIx)
  /-- `Fx18` LD ST, Vx (R101). -/
  | ldSTVx (x : RegIx)
  /-- `Fx1E` ADD I, Vx (R82). -/
  | addI (x : RegIx)
  /-- `Fx29` LD F, Vx (R83). -/
  | ldF (x : RegIx)
  /-- `Fx33` LD B, Vx (R84). -/
  | ldB (x : RegIx)
  /-- `Fx55` LD [I], Vx (R85): store `V0..Vx`. -/
  | storeRegs (x : RegIx)
  /-- `Fx65` LD Vx, [I] (R86): load `V0..Vx`. -/
  | loadRegs (x : RegIx)
deriving DecidableEq, Repr

end Sys2Proof
end

