-- ==== Sys2Proof/Machine/State.lean ====
section
/-! DEFINITION. The block's whole state (10_state.md R12), its reset values (R30), and the reasons a step can stop. -/

namespace Sys2Proof.Machine

/-- The fault causes of R103. -/
inductive FaultCause where
  /-- The fetched word matches no pattern (decode, R53). -/
  | unknownOpcode
  /-- `CALL` with `sp = 15` (R61). -/
  | stackOverflow
  /-- `RET` with `sp = 0` (R59). -/
  | stackUnderflow
  /-- An address of an access lies above `0xFFF` (R34). -/
  | memoryOutOfBounds
  /-- `SKP` or `SKNP` with `V[x] > 15` (R94, R95). -/
  | keyIndexOutOfRange
  /-- `ADD I, Vx` with a sum above `0xFFFF` (R82). -/
  | indexOverflow
  /-- `load_rom` with more than `0xE00` bytes (R126). -/
  | romTooLarge
deriving DecidableEq, Repr

/-- What a fault records (R104): the cause, the address `at` of the faulting instruction (`origin`; absent for `load_rom`), and `info`. -/
structure FaultRecord where
  cause : FaultCause
  origin : Option Word
  info : Word
deriving DecidableEq, Repr

/-- `status` of R28. -/
inductive Status where
  | running
  | faulted (r : FaultRecord)
deriving DecidableEq, Repr

/-- The reasons a step stops. `origin` is the record's `at`, the address of the faulting instruction (R104). -/
inductive Fault where
  /-- Raised by the decode stage of `step` (R53). Safe: the spec's own fault. -/
  | unknownOpcode (origin op : Word)
  /-- Raised by CALL (R61). Safe: the spec's own fault. -/
  | stackOverflow (origin target : Word)
  /-- Raised by RET (R59). Safe: the spec's own fault. -/
  | stackUnderflow (origin : Word)
  /-- Raised by the fetch stage of `step` (R47) and by DRW, LD B, LD [I] and LD Vx,[I] (R84 to R86, R89). Safe: the spec's own fault. -/
  | memoryOutOfBounds (origin address : Word)
  /-- Raised by SKP and SKNP (R94, R95). Safe: the spec's own fault. -/
  | keyIndexOutOfRange (origin key : Word)
  /-- Raised by ADD I (R82). Safe: the spec's own fault. -/
  | indexOverflow (origin index : Word)
  /-- Raised by `step` in the Faulted state, where `tick` has no step (R107). Safe: stuck, as the spec says. -/
  | halted (r : FaultRecord)
  /-- Raised by CALL and RET when `sp` is above 15, which R19 says never occurs and no run reaches (log entry 5). Safe: the
  model stops where the spec says nothing. -/
  | illegalStackPointer (origin : Word) (sp : Byte)
deriving DecidableEq, Repr

/-- The reasons the model gives no meaning. -/
inductive Refusal where
  /-- Raised by an arm of `exec` whose instruction has no meaning yet. Safe: nothing can be proved of it. -/
  | notModelled (mnemonic : String)
deriving DecidableEq, Repr

/-- The cells of memory that differ from the reset contents, addresses strictly rising (`Memory.wf`, Ops.lean). -/
abbrev Memory := List Host.Cell

/-- The framebuffer: 32 rows of 64 pixels (R25, R87). -/
abbrev Grid := Vector (Vector Bool 64) 32

/-- One bit for each of the 16 keys (R26). -/
abbrev Keys := Vector Bool 16

/-- The state record of R12, with the model's own `cfg` and `draws`. -/
structure State where
  /-- `mem`, through the canonical list of its cells (R24, R32). -/
  mem : Memory
  /-- `V[0..15]` (R13). -/
  v : Vector Byte 16
  /-- `I` (R16). -/
  i : Word
  /-- `pc` (R17). -/
  pc : Word
  /-- `sp` (R19). -/
  sp : Byte
  /-- `stack[0..15]` (R20). -/
  stack : Vector Word 16
  /-- `DT` (R21). -/
  dt : Byte
  /-- `ST` (R22). -/
  st : Byte
  /-- `disp` (R25). -/
  disp : Grid
  /-- `changed` (R25). -/
  changed : Bool
  /-- `keys_cur` (R26). -/
  keysCur : Keys
  /-- `keys_prev` (R26). -/
  keysPrev : Keys
  /-- `kw_latch` (R27). -/
  kwLatch : Bool
  /-- `status` (R28). -/
  status : Status
  /-- `rom_image`, present only under `RESET_RETAINS_ROM` (R29). -/
  romImage : Option (List Byte)
  /-- MODEL'S OWN: the parameters of R6, never written (log entry 1). -/
  cfg : Config
  /-- MODEL'S OWN: how many random bytes were drawn so far (R79, log entry 3). -/
  draws : Nat
deriving DecidableEq, Repr

/-- The values of R30 after `init` under the parameters `cfg`. Memory lists nothing: an unlisted address reads as its
reset contents (`unlisted`, Ops.lean). -/
def State.init (cfg : Config) : State where
  mem := []
  v := Vector.replicate 16 0
  i := 0
  pc := 0x200
  sp := 0
  stack := Vector.replicate 16 0
  dt := 0
  st := 0
  disp := Vector.replicate 32 (Vector.replicate 64 false)
  changed := false
  keysCur := Vector.replicate 16 false
  keysPrev := Vector.replicate 16 false
  kwLatch := false
  status := .running
  romImage := if cfg.resetRetainsRom then some [] else none
  cfg := cfg
  draws := 0

/-- The machine right after reset, at the default parameters (R6, R30). -/
def State.reset : State := State.init defaultConfig

end Sys2Proof.Machine
end

