-- ==== Sys2Proof/Machine/Flags.lean ====
section
/-! DEFINITION. Every flag of 10_state.md R15, as the byte that `VF` receives. -/

namespace Sys2Proof.Machine

/-- A condition as a flag: 1 or 0. -/
def flagOf (c : Bool) : Byte := if c then 1 else 0

/-- The flag of `8xy1`, `8xy2` and `8xy3`: always 0 (R71 to R73). -/
def flagLogic : Byte := 0

/-- The carry of `8xy4`: 1 if the exact sum is above 255 (R74). -/
def flagCarry (a b : Byte) : Byte := flagOf (decide (255 < a.toNat + b.toNat))

/-- The flag of `8xy5` (with `a - b`) and `8xy7` (with the operands exchanged): 1 if `a > b`, strictly (R75, R77). -/
def flagGreater (a b : Byte) : Byte := flagOf (decide (b.toNat < a.toNat))

/-- The bit that `8xy6` shifts out: bit 0 (R76). -/
def flagShiftRight (b : Byte) : Byte := b &&& (1 : Byte)

/-- The bit that `8xyE` shifts out: bit 7 (R78). -/
def flagShiftLeft (b : Byte) : Byte := (b >>> 7) &&& (1 : Byte)

end Sys2Proof.Machine
end

