-- ==== Sys2Proof/Machine/Operands.lean ====
section
/-! DEFINITION. The operand forms: registers, immediates, key indices, sprite coordinates, digits (00_scope.md R8, R9; 30_encoding.md R51). -/

namespace Sys2Proof.Machine

/-- `VF`, register 15 (R14). -/
abbrev VF : RegIx := 15

/-- `V[r]` (R9). -/
def State.getV (s : State) (r : RegIx) : Byte := s.v[r.val]

/-- `trunc_8(n)` = `n mod 256` (R8). -/
def trunc8 (n : Nat) : Byte := BitVec.ofNat 8 n

/-- `zext_16(nnn)` (R51). -/
def zextAddr (nnn : Addr) : Word := nnn.setWidth 16

/-- An 8-bit value widened to 16 bits with zeros (R8). -/
def zextByte (b : Byte) : Word := b.setWidth 16

/-- `V[x]` as a key index, when it names one of the 16 keys (R94). -/
def State.keyIndex (s : State) (x : RegIx) : Option (Fin 16) :=
  if h : (s.getV x).toNat < 16 then some ⟨(s.getV x).toNat, h⟩ else none

/-- `x0 = V[x] mod 64` (R90). -/
def State.spriteX (s : State) (x : RegIx) : Nat := (s.getV x).toNat % 64

/-- `y0 = V[y] mod 32` (R90). -/
def State.spriteY (s : State) (y : RegIx) : Nat := (s.getV y).toNat % 32

/-- `V[0], …, V[x]`, the registers that `Fx55` stores (R85). -/
def State.lowRegs (s : State) (x : RegIx) : List Byte := s.v.toList.take (x.val + 1)

/-- The decimal digits of a byte: hundreds, tens, ones (R84). -/
def decimalDigits (b : Byte) : List Byte :=
  [trunc8 (b.toNat / 100), trunc8 (b.toNat / 10 % 10), trunc8 (b.toNat % 10)]

end Sys2Proof.Machine
end

