-- ==== Sys2Proof/Machine/Ops.lean ====
section
/-! DEFINITION. The named operations over memory, registers, stack, keypad and display, and raising a fault. -/

namespace Sys2Proof.Machine

/-! ### Memory -/

/-- What an address reads as when nothing has been written there since reset: `FONT` in `[0x000, 0x050)`, zero elsewhere (R30, R36). -/
def unlisted (font : Font) (a : Nat) : Byte := if h : a < 80 then font[a] else 0

/-- The listed byte at an address. -/
def Memory.lookup : Memory → Nat → Option Byte
  | [], _ => none
  | (k, b) :: m, a => if k = a then some b else Memory.lookup m a

/-- The byte at an address. -/
def Memory.read (font : Font) (m : Memory) (a : Nat) : Byte := (Memory.lookup m a).getD (unlisted font a)

/-- List the byte `b` at `a`, keeping addresses rising. -/
def Memory.insert : Memory → Nat → Byte → Memory
  | [], a, b => [(a, b)]
  | (k, c) :: m, a, b =>
    if k < a then (k, c) :: Memory.insert m a b
    else if k = a then (a, b) :: m
    else (a, b) :: (k, c) :: m

/-- List nothing at `a`. -/
def Memory.erase : Memory → Nat → Memory
  | [], _ => []
  | (k, c) :: m, a => if k = a then Memory.erase m a else (k, c) :: Memory.erase m a

/-- Store a byte, keeping the canonical form: a byte equal to the reset contents is not listed. -/
def Memory.write (font : Font) (m : Memory) (a : Nat) (b : Byte) : Memory :=
  if b = unlisted font a then Memory.erase m a else Memory.insert m a b

/-- Every address listed is above `lo`, and they rise strictly. -/
def Memory.risingFrom : Nat → Memory → Bool
  | _, [] => true
  | lo, (k, _) :: m => decide (lo ≤ k) && Memory.risingFrom (k + 1) m

/-- The canonical form: addresses strictly rising and below 4096, no byte equal to the reset contents. -/
def Memory.wf (font : Font) (m : Memory) : Bool :=
  Memory.risingFrom 0 m && m.all fun c => decide (c.1 < 4096) && decide (c.2 ≠ unlisted font c.1)

/-- `MemRead(a, 1)` (R9). Callers check the range first (R35). -/
def State.readByte (s : State) (a : Nat) : Byte := Memory.read s.cfg.font s.mem a

/-- `MemWrite(a, 1, b)` (R9). Callers check the range first (R35). -/
def State.writeByte (s : State) (a : Nat) (b : Byte) : State := { s with mem := Memory.write s.cfg.font s.mem a b }

/-- Store bytes at increasing addresses from `a` (R38). -/
def State.writeBytes (s : State) (a : Nat) : List Byte → State
  | [] => s
  | b :: bs => (s.writeByte a b).writeBytes (a + 1) bs

/-- The `n` bytes from `a`, in increasing address order. -/
def State.readBytes (s : State) (a n : Nat) : List Byte := (List.range n).map fun j => s.readByte (a + j)

/-- `CheckRange(a, n)` (R9): the first address outside memory when the `n` bytes from `a` leave it, in exact integers. -/
def checkRange (a n : Nat) : Option Word :=
  if n = 0 then none else if 0xFFF < a + n - 1 then some (BitVec.ofNat 16 (max a 0x1000)) else none

/-! ### Raising a fault -/

/-- The address of the running instruction: `pc` holds it plus 2 (R48). -/
def State.origin (s : State) : Word := s.pc - 2

/-- `raise Fault(cause, info)` inside an instruction (R102): the step stops, and the fault carries the instruction's
address (R104). There is no handler, no vector and no return (R108, R109); `State.enterFaulted` (Block.lean) is the state
that the fault leaves. -/
def raise (f : Word → Fault) (s : State) : Host.Outcome State Fault Refusal := .fault (f s.origin)

/-- An access to the `n` bytes from `a`: `CheckRange` first, then `k` (R35). -/
def withRange (a n : Nat) (s : State) (k : Host.Outcome State Fault Refusal) : Host.Outcome State Fault Refusal :=
  match checkRange a n with
  | some info => raise (Fault.memoryOutOfBounds · info) s
  | none => k

/-! ### Registers, program counter, stack -/

/-- `V[r] <- b` (R9). -/
def State.setV (s : State) (r : RegIx) (b : Byte) : State := { s with v := s.v.set r.val b }

/-- `V[x] <- b`, then `V[15] <- f`: the flag is written last and wins (R10, R14). -/
def State.setFlagged (s : State) (x : RegIx) (b f : Byte) : State := (s.setV x b).setV VF f

/-- `I <- w` (R9). -/
def State.setI (s : State) (w : Word) : State := { s with i := w }

/-- `pc <- w` (R9). -/
def State.setPc (s : State) (w : Word) : State := { s with pc := w }

/-- A skip: `pc <- pc + 2` when the condition holds (R62). -/
def State.skipIf (s : State) (c : Bool) : State := s.setPc (if c then s.pc + 2 else s.pc)

/-- Re-block: `pc <- pc - 2` (R97). -/
def State.rewind (s : State) : State := s.setPc (s.pc - 2)

/-- `sp <- s + 1; stack[s + 1] <- pc; pc <- target` (R61), when `stack[s + 1]` exists. -/
def State.pushCall (s : State) (target : Word) : Option State :=
  if h : s.sp.toNat + 1 < 16 then
    some { s with sp := s.sp + 1, stack := s.stack.set (s.sp.toNat + 1) s.pc, pc := target }
  else none

/-- `pc <- stack[s]; sp <- s - 1` (R59), when `stack[s]` exists. -/
def State.popReturn (s : State) : Option State :=
  if h : s.sp.toNat < 16 then some { s with pc := s.stack[s.sp.toNat], sp := s.sp - 1 } else none

/-- `V[j] <- bytes[j]` for `j = 0..x`, with the bytes from address `a` (R86). -/
def State.loadLowRegs (s : State) (x : RegIx) (a : Nat) : State :=
  { s with v := Vector.ofFn fun j => if j.val ≤ x.val then s.readByte (a + j.val) else s.v[j.val] }

/-! ### Timers, random draws, display -/

/-- `DT <- b` (R100). -/
def State.setDT (s : State) (b : Byte) : State := { s with dt := b }

/-- `ST <- b` (R101). -/
def State.setST (s : State) (b : Byte) : State := { s with st := b }

/-- `draw Random8()` (R9): the next free byte, and the state in which it is used up. -/
def State.draw (s : State) : Byte × State := (Config.random8 s.draws, { s with draws := s.draws + 1 })

/-- The framebuffer and the changed flag. -/
def State.setDisplay (s : State) (g : Grid) (changed : Bool) : State := { s with disp := g, changed := changed }

/-- `disp[r][c]`, off outside the grid. -/
def Grid.pixel (g : Grid) (r c : Nat) : Bool := if h : r < 32 ∧ c < 64 then g[r][c] else false

/-- All pixels 0 (R88). -/
def Grid.blank : Grid := Vector.replicate 32 (Vector.replicate 64 false)

/-! ### Keypad -/

/-- `P ≠ ∅`: some key went from up to down (R97). -/
def State.pressSeen (s : State) : Bool := (List.finRange 16).any fun k => !s.keysPrev[k.val] && s.keysCur[k.val]

/-- `min(R)`: the lowest key that went from down to up, if any (R97). -/
def State.lowestRelease (s : State) : Option (Fin 16) :=
  (List.finRange 16).find? fun k => s.keysPrev[k.val] && !s.keysCur[k.val]

/-- `kw_latch <- b` (R99). -/
def State.setLatch (s : State) (b : Bool) : State := { s with kwLatch := b }

/-- `keys_prev <- keys_cur` (R49). -/
def State.snapshotKeys (s : State) : State := { s with keysPrev := s.keysCur }

end Sys2Proof.Machine
end

