-- ==== Sys2Proof/Machine/Alu.lean ====
section
/-! DEFINITION. Register loads and the ALU (41_register_alu.md). Operands are read first; the flag is written last (R10). -/

namespace Sys2Proof.Machine

/-- R68: `LD Vx, byte`. -/
def execLdByte (x : RegIx) (kk : Byte) (s : State) : Host.Outcome State Fault Refusal := .next (s.setV x kk)

/-- R69: `ADD Vx, byte`, with no flag. -/
def execAddByte (x : RegIx) (kk : Byte) (s : State) : Host.Outcome State Fault Refusal :=
  .next (s.setV x (trunc8 ((s.getV x).toNat + kk.toNat)))

/-- R70: `LD Vx, Vy`. -/
def execLdReg (x y : RegIx) (s : State) : Host.Outcome State Fault Refusal := .next (s.setV x (s.getV y))

/-- R71: `OR Vx, Vy`. -/
def execOrReg (x y : RegIx) (s : State) : Host.Outcome State Fault Refusal :=
  .next (s.setFlagged x (s.getV x ||| s.getV y) flagLogic)

/-- R72: `AND Vx, Vy`. -/
def execAndReg (x y : RegIx) (s : State) : Host.Outcome State Fault Refusal :=
  .next (s.setFlagged x (s.getV x &&& s.getV y) flagLogic)

/-- R73: `XOR Vx, Vy`. -/
def execXorReg (x y : RegIx) (s : State) : Host.Outcome State Fault Refusal :=
  .next (s.setFlagged x (s.getV x ^^^ s.getV y) flagLogic)

/-- R74: `ADD Vx, Vy`. -/
def execAddReg (x y : RegIx) (s : State) : Host.Outcome State Fault Refusal :=
  .next (s.setFlagged x (trunc8 ((s.getV x).toNat + (s.getV y).toNat)) (flagCarry (s.getV x) (s.getV y)))

/-- R75: `SUB Vx, Vy`. -/
def execSub (x y : RegIx) (s : State) : Host.Outcome State Fault Refusal :=
  .next (s.setFlagged x (s.getV x - s.getV y) (flagGreater (s.getV x) (s.getV y)))

/-- R76: `SHR Vx, Vy`, whose source is `Vy`. -/
def execShr (x y : RegIx) (s : State) : Host.Outcome State Fault Refusal :=
  .next (s.setFlagged x (s.getV y >>> 1) (flagShiftRight (s.getV y)))

/-- R77: `SUBN Vx, Vy`. -/
def execSubn (x y : RegIx) (s : State) : Host.Outcome State Fault Refusal :=
  .next (s.setFlagged x (s.getV y - s.getV x) (flagGreater (s.getV y) (s.getV x)))

/-- R78: `SHL Vx, Vy`, whose source is `Vy`. -/
def execShl (x y : RegIx) (s : State) : Host.Outcome State Fault Refusal :=
  .next (s.setFlagged x (trunc8 ((s.getV y).toNat * 2)) (flagShiftLeft (s.getV y)))

/-- R79: `RND Vx, byte`: a fresh draw under the mask `kk`. -/
def execRnd (x : RegIx) (kk : Byte) (s : State) : Host.Outcome State Fault Refusal :=
  .next (s.draw.2.setV x (s.draw.1 &&& kk))

end Sys2Proof.Machine
end

