-- ==== Sys2Proof/Machine/ControlFlow.lean ====
section
/-! DEFINITION. Returns, jumps, calls and skips (40_control_flow.md). Here `pc` already holds the instruction's address + 2 (R48). -/

namespace Sys2Proof.Machine

/-- R59: `RET`. -/
def execRet (s : State) : Host.Outcome State Fault Refusal :=
  if s.sp = 0 then raise Fault.stackUnderflow s
  else match s.popReturn with
    | some t => .next t
    | none => raise (Fault.illegalStackPointer · s.sp) s

/-- R60: `JP addr`. -/
def execJp (nnn : Addr) (s : State) : Host.Outcome State Fault Refusal := .next (s.setPc (zextAddr nnn))

/-- R61: `CALL addr`. -/
def execCall (nnn : Addr) (s : State) : Host.Outcome State Fault Refusal :=
  if s.sp = 15 then raise (Fault.stackOverflow · (zextAddr nnn)) s
  else match s.pushCall (zextAddr nnn) with
    | some t => .next t
    | none => raise (Fault.illegalStackPointer · s.sp) s

/-- R62: `SE Vx, byte`. -/
def execSeByte (x : RegIx) (kk : Byte) (s : State) : Host.Outcome State Fault Refusal :=
  .next (s.skipIf (decide (s.getV x = kk)))

/-- R63: `SNE Vx, byte`. -/
def execSneByte (x : RegIx) (kk : Byte) (s : State) : Host.Outcome State Fault Refusal :=
  .next (s.skipIf (decide (s.getV x ≠ kk)))

/-- R64: `SE Vx, Vy`. -/
def execSeReg (x y : RegIx) (s : State) : Host.Outcome State Fault Refusal :=
  .next (s.skipIf (decide (s.getV x = s.getV y)))

/-- R65: `SNE Vx, Vy`. -/
def execSneReg (x y : RegIx) (s : State) : Host.Outcome State Fault Refusal :=
  .next (s.skipIf (decide (s.getV x ≠ s.getV y)))

/-- R66: `JP V0, addr`. The exact sum is at most `0x10FE` and is not masked to 12 bits. -/
def execJpV0 (nnn : Addr) (s : State) : Host.Outcome State Fault Refusal :=
  .next (s.setPc (zextAddr nnn + zextByte (s.getV 0)))

end Sys2Proof.Machine
end

