-- ==== Sys2Proof/Machine/Display.lean ====
section
/-! DEFINITION. The framebuffer writer (43_display.md): clear and XOR-draw. -/

namespace Sys2Proof.Machine

/-- R88: `CLS`. -/
def execCls (s : State) : Host.Outcome State Fault Refusal := .next (s.setDisplay Grid.blank true)

/-- `row[r][7-c]`: column `c` of sprite row `r`, bit 7 first (R87, R89). -/
def spriteBit (rows : List Byte) (r c : Nat) : Bool := (rows.getD r 0).getLsbD (7 - c)

/-- Whether some set bit of the sprite, drawn from row `y0` and column `x0`, falls on the pixel `(row, col)`. Nothing wraps:
a bit that would pass row 31 or column 63 falls on no pixel (R90). -/
def spriteCovers (rows : List Byte) (y0 x0 row col : Nat) : Bool :=
  decide (y0 ≤ row) && decide (row < y0 + rows.length) && decide (x0 ≤ col) && decide (col < x0 + 8) &&
    spriteBit rows (row - y0) (col - x0)

/-- Every covered pixel XORed with 1, every other left as it is (R87). Each sprite bit reaches a different pixel, so the order
of the loop of R89 is not observable. -/
def drawSprite (g : Grid) (rows : List Byte) (y0 x0 : Nat) : Grid :=
  Vector.ofFn fun r => Vector.ofFn fun c => g[r.val][c.val] ^^ spriteCovers rows y0 x0 r.val c.val

/-- Whether some set sprite bit on the screen meets `p` at its pixel: the loop of R89, with its two breaks. -/
def spriteAny (rows : List Byte) (y0 x0 : Nat) (p : Nat → Nat → Bool) : Bool :=
  (List.range rows.length).any fun r => (List.range 8).any fun c =>
    decide (y0 + r ≤ 31) && decide (x0 + c ≤ 63) && spriteBit rows r c && p (y0 + r) (x0 + c)

/-- `touched`: at least one pixel is XORed (R92). -/
def spriteTouches (rows : List Byte) (y0 x0 : Nat) : Bool := spriteAny rows y0 x0 fun _ _ => true

/-- `hit`: at least one drawn pixel was 1 (R91). -/
def spriteHits (g : Grid) (rows : List Byte) (y0 x0 : Nat) : Bool := spriteAny rows y0 x0 fun r c => Grid.pixel g r c

/-- R89 to R93: `DRW Vx, Vy, nibble`. All `n` rows are range-checked, clipped or not. -/
def execDrw (x y : RegIx) (n : Nat) (s : State) : Host.Outcome State Fault Refusal :=
  withRange s.i.toNat n s
    (.next
      ((s.setDisplay (drawSprite s.disp (s.readBytes s.i.toNat n) (s.spriteY y) (s.spriteX x))
          (s.changed || spriteTouches (s.readBytes s.i.toNat n) (s.spriteY y) (s.spriteX x))).setV VF
        (flagOf (spriteHits s.disp (s.readBytes s.i.toNat n) (s.spriteY y) (s.spriteX x)))))

end Sys2Proof.Machine
end

