-- ==== Sys2Proof/Machine/IndexMemory.lean ====
section
/-! DEFINITION. The index register and memory transfers (42_index_memory.md). -/

namespace Sys2Proof.Machine

/-- R81: `LD I, addr`. -/
def execLdI (nnn : Addr) (s : State) : Host.Outcome State Fault Refusal := .next (s.setI (zextAddr nnn))

/-- R82: `ADD I, Vx`. A sum that does not fit in 16 bits faults with the old `I`. -/
def execAddI (x : RegIx) (s : State) : Host.Outcome State Fault Refusal :=
  if 0xFFFF < s.i.toNat + (s.getV x).toNat then raise (Fault.indexOverflow · s.i) s
  else .next (s.setI (BitVec.ofNat 16 (s.i.toNat + (s.getV x).toNat)))

/-- R83: `LD F, Vx`. The whole byte is multiplied; it is not masked. -/
def execLdF (x : RegIx) (s : State) : Host.Outcome State Fault Refusal :=
  .next (s.setI (BitVec.ofNat 16 ((s.getV x).toNat * 5)))

/-- R84: `LD B, Vx`. -/
def execLdB (x : RegIx) (s : State) : Host.Outcome State Fault Refusal :=
  withRange s.i.toNat 3 s (.next (s.writeBytes s.i.toNat (decimalDigits (s.getV x))))

/-- R85: `LD [I], Vx`. -/
def execStoreRegs (x : RegIx) (s : State) : Host.Outcome State Fault Refusal :=
  withRange s.i.toNat (x.val + 1) s
    (.next ((s.writeBytes s.i.toNat (s.lowRegs x)).setI (BitVec.ofNat 16 (s.i.toNat + x.val + 1))))

/-- R86: `LD Vx, [I]`. -/
def execLoadRegs (x : RegIx) (s : State) : Host.Outcome State Fault Refusal :=
  withRange s.i.toNat (x.val + 1) s
    (.next ((s.loadLowRegs x s.i.toNat).setI (BitVec.ofNat 16 (s.i.toNat + x.val + 1))))

end Sys2Proof.Machine
end

