-- ==== Sys2Proof/Machine/KeypadTimer.lean ====
section
/-! DEFINITION. Keypad tests, the key wait and timer access (44_keypad_timer.md). -/

namespace Sys2Proof.Machine

/-- R94: `SKP Vx`. -/
def execSkp (x : RegIx) (s : State) : Host.Outcome State Fault Refusal :=
  match s.keyIndex x with
  | some k => .next (s.skipIf s.keysCur[k.val])
  | none => raise (Fault.keyIndexOutOfRange · (zextByte (s.getV x))) s

/-- R95: `SKNP Vx`. -/
def execSknp (x : RegIx) (s : State) : Host.Outcome State Fault Refusal :=
  match s.keyIndex x with
  | some k => .next (s.skipIf (!s.keysCur[k.val]))
  | none => raise (Fault.keyIndexOutOfRange · (zextByte (s.getV x))) s

/-- R96: `LD Vx, DT`. -/
def execLdVxDT (x : RegIx) (s : State) : Host.Outcome State Fault Refusal := .next (s.setV x s.dt)

/-- R97 to R99: `LD Vx, K`. A press seen now arms the latch and re-blocks, whatever was released; a release completes, unless
the latch gates it and is not armed; else the instruction re-blocks. -/
def execLdVxK (x : RegIx) (s : State) : Host.Outcome State Fault Refusal :=
  if s.pressSeen then .next (s.setLatch true).rewind
  else match s.lowestRelease with
    | some k =>
      if !s.cfg.keywaitLatchGates || s.kwLatch then .next ((s.setV x (trunc8 k.val)).setLatch false)
      else .next s.rewind
    | none => .next s.rewind

/-- R100: `LD DT, Vx`. -/
def execLdDTVx (x : RegIx) (s : State) : Host.Outcome State Fault Refusal := .next (s.setDT (s.getV x))

/-- R101: `LD ST, Vx`. -/
def execLdSTVx (x : RegIx) (s : State) : Host.Outcome State Fault Refusal := .next (s.setST (s.getV x))

end Sys2Proof.Machine
end

