-- ==== Sys2Proof/Decode.lean ====
section
/-! DEFINITION. Decoding and encoding (30_encoding.md): from bytes to an instruction or a named rejection, and back. -/

namespace Sys2Proof

/-- Why bytes are no instruction. -/
inductive Reject where
  /-- Fewer than the two bytes of an instruction (R50). -/
  | truncated
  /-- The word matches no pattern of R56; it is reported raw (R53). -/
  | unknownOpcode (op : Word)
deriving DecidableEq, Repr

/-- The big-endian word of two bytes: the byte at the lower address is `op[15:8]` (R38). -/
def wordOfBytes (hi lo : Byte) : Word := BitVec.ofNat 16 (hi.toNat * 256 + lo.toNat)

/-- The two bytes of a word as memory holds them, the high byte at the lower address (R38). -/
def bytesOfWord (op : Word) : List Byte := [BitVec.ofNat 8 (op.toNat / 256), BitVec.ofNat 8 op.toNat]

/-- The leading nibble `op[15:12]` (R7). -/
def fieldLead (op : Word) : Nat := op.toNat / 4096

/-- `x = op[11:8]` (R51). -/
def fieldX (op : Word) : RegIx := Fin.ofNat 16 (op.toNat / 256)

/-- `y = op[7:4]` (R51). -/
def fieldY (op : Word) : RegIx := Fin.ofNat 16 (op.toNat / 16)

/-- `n = op[3:0]` (R51). -/
def fieldN (op : Word) : Nat := op.toNat % 16

/-- `kk = op[7:0]` (R51). -/
def fieldKK (op : Word) : Byte := BitVec.ofNat 8 op.toNat

/-- `nnn = op[11:0]` (R51). -/
def fieldNNN (op : Word) : Addr := BitVec.ofNat 12 op.toNat

/-- Leading nibble 0: only `00E0` and `00EE` are instructions (R54). -/
def decode0 (op : Word) : Option Instr :=
  match op.toNat with
  | 0x00E0 => some .cls
  | 0x00EE => some .ret
  | _ => none

/-- Leading nibble 8, told apart by the trailing nibble (R56). -/
def decode8 (op : Word) : Option Instr :=
  match fieldN op with
  | 0x0 => some (.ldReg (fieldX op) (fieldY op))
  | 0x1 => some (.orReg (fieldX op) (fieldY op))
  | 0x2 => some (.andReg (fieldX op) (fieldY op))
  | 0x3 => some (.xorReg (fieldX op) (fieldY op))
  | 0x4 => some (.addReg (fieldX op) (fieldY op))
  | 0x5 => some (.sub (fieldX op) (fieldY op))
  | 0x6 => some (.shr (fieldX op) (fieldY op))
  | 0x7 => some (.subn (fieldX op) (fieldY op))
  | 0xE => some (.shl (fieldX op) (fieldY op))
  | _ => none

/-- Leading nibble E, told apart by the low byte (R56). -/
def decodeE (op : Word) : Option Instr :=
  match (fieldKK op).toNat with
  | 0x9E => some (.skp (fieldX op))
  | 0xA1 => some (.sknp (fieldX op))
  | _ => none

/-- Leading nibble F, told apart by the low byte (R56). -/
def decodeF (op : Word) : Option Instr :=
  match (fieldKK op).toNat with
  | 0x07 => some (.ldVxDT (fieldX op))
  | 0x0A => some (.ldVxK (fieldX op))
  | 0x15 => some (.ldDTVx (fieldX op))
  | 0x18 => some (.ldSTVx (fieldX op))
  | 0x1E => some (.addI (fieldX op))
  | 0x29 => some (.ldF (fieldX op))
  | 0x33 => some (.ldB (fieldX op))
  | 0x55 => some (.storeRegs (fieldX op))
  | 0x65 => some (.loadRegs (fieldX op))
  | _ => none

/-- The patterns of R56 whose leading nibble is `lead`. -/
def decodeLead (lead : Nat) (op : Word) : Option Instr :=
  match lead with
  | 0x0 => decode0 op
  | 0x1 => some (.jp (fieldNNN op))
  | 0x2 => some (.call (fieldNNN op))
  | 0x3 => some (.seByte (fieldX op) (fieldKK op))
  | 0x4 => some (.sneByte (fieldX op) (fieldKK op))
  | 0x5 => if fieldN op = 0 then some (.seReg (fieldX op) (fieldY op)) else none
  | 0x6 => some (.ldByte (fieldX op) (fieldKK op))
  | 0x7 => some (.addByte (fieldX op) (fieldKK op))
  | 0x8 => decode8 op
  | 0x9 => if fieldN op = 0 then some (.sneReg (fieldX op) (fieldY op)) else none
  | 0xA => some (.ldI (fieldNNN op))
  | 0xB => some (.jpV0 (fieldNNN op))
  | 0xC => some (.rnd (fieldX op) (fieldKK op))
  | 0xD => some (.drw (fieldX op) (fieldY op) (fieldN op))
  | 0xE => decodeE op
  | 0xF => decodeF op
  | _ => none

/-- The dispatch of R52: the leading nibble first, then the nibbles that tell its family apart. -/
def decodePattern (op : Word) : Option Instr := decodeLead (fieldLead op) op

/-- `Decode(op)`: the one instruction whose pattern matches, or the rejection of R53. -/
def decode (op : Word) : Except Reject Instr :=
  match decodePattern op with
  | some i => .ok i
  | none => .error (.unknownOpcode op)

/-- Decoding of any bytes: the instruction of the first two, with the bytes after it, or a named rejection. -/
def decodeBytes : List Byte → Except Reject (Instr × List Byte)
  | hi :: lo :: rest =>
    match decode (wordOfBytes hi lo) with
    | .ok i => .ok (i, rest)
    | .error r => .error r
  | _ => .error .truncated

/-- The host's view of the decoder: the table numbers the one 16-bit word as usual, memory holds it big-endian (R38). -/
def decodeTableWord (nbits w : Nat) : Option Instr :=
  match decodeBytes (bytesOfWord (BitVec.ofNat 16 (w % 2 ^ nbits))) with
  | .ok (i, _) => some i
  | .error _ => none

/-- A word spelled in four hex digits (R7). -/
def hexWord (d3 d2 d1 d0 : Nat) : Word := BitVec.ofNat 16 (d3 * 4096 + d2 * 256 + d1 * 16 + d0)

/-- A word with the leading nibble `d3`, the register `x` and the byte `kk` (format XK of R50). -/
def hexWordXK (d3 : Nat) (x : RegIx) (kk : Byte) : Word := BitVec.ofNat 16 (d3 * 4096 + x.val * 256 + kk.toNat)

/-- A word with the leading nibble `d3` and the address `nnn` (format A of R50). -/
def hexWordA (d3 : Nat) (nnn : Addr) : Word := BitVec.ofNat 16 (d3 * 4096 + nnn.toNat)

/-- The word of an instruction, from the patterns of R56. -/
def encode : Instr → Word
  | .cls => hexWord 0x0 0x0 0xE 0x0
  | .ret => hexWord 0x0 0x0 0xE 0xE
  | .jp nnn => hexWordA 0x1 nnn
  | .call nnn => hexWordA 0x2 nnn
  | .seByte x kk => hexWordXK 0x3 x kk
  | .sneByte x kk => hexWordXK 0x4 x kk
  | .seReg x y => hexWord 0x5 x.val y.val 0x0
  | .sneReg x y => hexWord 0x9 x.val y.val 0x0
  | .ldByte x kk => hexWordXK 0x6 x kk
  | .addByte x kk => hexWordXK 0x7 x kk
  | .ldReg x y => hexWord 0x8 x.val y.val 0x0
  | .orReg x y => hexWord 0x8 x.val y.val 0x1
  | .andReg x y => hexWord 0x8 x.val y.val 0x2
  | .xorReg x y => hexWord 0x8 x.val y.val 0x3
  | .addReg x y => hexWord 0x8 x.val y.val 0x4
  | .sub x y => hexWord 0x8 x.val y.val 0x5
  | .shr x y => hexWord 0x8 x.val y.val 0x6
  | .subn x y => hexWord 0x8 x.val y.val 0x7
  | .shl x y => hexWord 0x8 x.val y.val 0xE
  | .ldI nnn => hexWordA 0xA nnn
  | .jpV0 nnn => hexWordA 0xB nnn
  | .rnd x kk => hexWordXK 0xC x kk
  | .drw x y n => hexWord 0xD x.val y.val (n % 16)
  | .skp x => hexWord 0xE x.val 0x9 0xE
  | .sknp x => hexWord 0xE x.val 0xA 0x1
  | .ldVxDT x => hexWord 0xF x.val 0x0 0x7
  | .ldVxK x => hexWord 0xF x.val 0x0 0xA
  | .ldDTVx x => hexWord 0xF x.val 0x1 0x5
  | .ldSTVx x => hexWord 0xF x.val 0x1 0x8
  | .addI x => hexWord 0xF x.val 0x1 0xE
  | .ldF x => hexWord 0xF x.val 0x2 0x9
  | .ldB x => hexWord 0xF x.val 0x3 0x3
  | .storeRegs x => hexWord 0xF x.val 0x5 0x5
  | .loadRegs x => hexWord 0xF x.val 0x6 0x5

/-- The two bytes of an instruction as memory holds them. -/
def encodeBytes (i : Instr) : List Byte := bytesOfWord (encode i)

/-- The `match` and `mask` columns of spec/opcode_table.json for an instruction's row (R52). -/
def Instr.matchMask : Instr → Word × Word
  | .cls => (0x00E0, 0xFFFF)
  | .ret => (0x00EE, 0xFFFF)
  | .jp _ => (0x1000, 0xF000)
  | .call _ => (0x2000, 0xF000)
  | .seByte _ _ => (0x3000, 0xF000)
  | .sneByte _ _ => (0x4000, 0xF000)
  | .seReg _ _ => (0x5000, 0xF00F)
  | .sneReg _ _ => (0x9000, 0xF00F)
  | .ldByte _ _ => (0x6000, 0xF000)
  | .addByte _ _ => (0x7000, 0xF000)
  | .ldReg _ _ => (0x8000, 0xF00F)
  | .orReg _ _ => (0x8001, 0xF00F)
  | .andReg _ _ => (0x8002, 0xF00F)
  | .xorReg _ _ => (0x8003, 0xF00F)
  | .addReg _ _ => (0x8004, 0xF00F)
  | .sub _ _ => (0x8005, 0xF00F)
  | .shr _ _ => (0x8006, 0xF00F)
  | .subn _ _ => (0x8007, 0xF00F)
  | .shl _ _ => (0x800E, 0xF00F)
  | .ldI _ => (0xA000, 0xF000)
  | .jpV0 _ => (0xB000, 0xF000)
  | .rnd _ _ => (0xC000, 0xF000)
  | .drw _ _ _ => (0xD000, 0xF000)
  | .skp _ => (0xE09E, 0xF0FF)
  | .sknp _ => (0xE0A1, 0xF0FF)
  | .ldVxDT _ => (0xF007, 0xF0FF)
  | .ldVxK _ => (0xF00A, 0xF0FF)
  | .ldDTVx _ => (0xF015, 0xF0FF)
  | .ldSTVx _ => (0xF018, 0xF0FF)
  | .addI _ => (0xF01E, 0xF0FF)
  | .ldF _ => (0xF029, 0xF0FF)
  | .ldB _ => (0xF033, 0xF0FF)
  | .storeRegs _ => (0xF055, 0xF0FF)
  | .loadRegs _ => (0xF065, 0xF0FF)

end Sys2Proof
end

