-- ==== Sys2Proof/Machine/Tick.lean ====
section
/-! DEFINITION. The stages of `tick` around an instruction (30_encoding.md R46 to R49). -/

namespace Sys2Proof.Machine

/-- The big-endian word at `pc` (R38, R47). -/
def State.fetchWord (s : State) : Word := wordOfBytes (s.readByte s.pc.toNat) (s.readByte (s.pc.toNat + 1))

/-- Fetch and decode, in the order of R106: the range of both bytes, then the pattern. `at` is `pc` itself here, which has not
advanced yet. -/
def fetchDecode (s : State) : Except Fault Instr :=
  match checkRange s.pc.toNat 2 with
  | some info => .error (.memoryOutOfBounds s.pc info)
  | none =>
    match decode s.fetchWord with
    | .ok i => .ok i
    | .error _ => .error (.unknownOpcode s.pc s.fetchWord)

/-- `pc <- at + 2`, before the instruction runs (R48). -/
def State.advance (s : State) : State := s.setPc (s.pc + 2)

/-- The end of a tick: the keypad snapshot, unless the tick faulted (R49). -/
def endTick : Host.Outcome State Fault Refusal → Host.Outcome State Fault Refusal
  | .next t => .next t.snapshotKeys
  | .fault f => .fault f
  | .refused r => .refused r

/-- The two bytes of a table word stored where the next fetch reads (log entry 6). -/
def State.placeWord (s : State) (nbits w : Nat) : State :=
  s.writeBytes s.pc.toNat (bytesOfWord (BitVec.ofNat 16 (w % 2 ^ nbits)))

end Sys2Proof.Machine
end

