-- ==== Sys2Proof/Machine/Step.lean ====
section
/-! DEFINITION. `tick` (30_encoding.md R46): one fetch-decode-execute step. -/

namespace Sys2Proof.Machine

/-- One tick: none in the Faulted state (R107); else fetch and decode, advance `pc`, execute, and take the keypad snapshot. -/
def step (s : State) : Host.Outcome State Fault Refusal :=
  match s.status with
  | .faulted r => .fault (.halted r)
  | .running =>
    match fetchDecode s with
    | .error f => .fault f
    | .ok i => endTick (exec i s.advance)

/-- The table word stored at `pc`, where `step` fetches next. It stands for the host's `load_rom` (log entry 6). -/
def State.withFetchWord (s : State) (nbits w : Nat) : State := s.placeWord nbits w

end Sys2Proof.Machine
end

