-- ==== Sys2Proof/Machine/Block.lean ====
section
/-! DEFINITION. The operations of the block's interface (00_scope.md R4), each one transaction on State: what the host can do, and
`tick` with the state a fault leaves. -/

namespace Sys2Proof.Machine

/-- The status that a fault of `tick` records (R102 to R104). None when `tick` had no step (R107), or in the states that no run
reaches (log entry 5). -/
def Fault.record : Fault → Option FaultRecord
  | .unknownOpcode origin op => some ⟨.unknownOpcode, some origin, op⟩
  | .stackOverflow origin target => some ⟨.stackOverflow, some origin, target⟩
  | .stackUnderflow origin => some ⟨.stackUnderflow, some origin, 0⟩
  | .memoryOutOfBounds origin address => some ⟨.memoryOutOfBounds, some origin, address⟩
  | .keyIndexOutOfRange origin key => some ⟨.keyIndexOutOfRange, some origin, key⟩
  | .indexOverflow origin index => some ⟨.indexOverflow, some origin, index⟩
  | .halted _ => none
  | .illegalStackPointer _ _ => none

/-- The numeric code of a cause (R103). -/
def FaultCause.code : FaultCause → Nat
  | .unknownOpcode => 1
  | .stackOverflow => 2
  | .stackUnderflow => 3
  | .memoryOutOfBounds => 4
  | .keyIndexOutOfRange => 5
  | .indexOverflow => 6
  | .romTooLarge => 7

/-- The state that a fault leaves: `status` holds the record, and everything else is unspecified (R105). What it then holds is
the argument `residue`, any value at all; the parameters and the count of draws are the model's own and stay (log entry 4). -/
def State.enterFaulted (s residue : State) (r : FaultRecord) : State :=
  { residue with status := .faulted r, cfg := s.cfg, draws := s.draws }

/-- `tick` as a transaction on the state (R46, R102, R107). -/
def State.tick (s residue : State) : State :=
  match step s with
  | .next t => t
  | .fault f =>
    match f.record with
    | some r => s.enterFaulted residue r
    | none => s
  | .refused _ => s

/-- `init` (R123): the values of R30. Draws are never taken back (log entry 3). -/
def State.reinit (s : State) : State := { State.init s.cfg with draws := s.draws }

/-- `load_rom(bytes)` (R125), or the fault of R126. -/
def State.loadRom (s residue : State) (bytes : List Byte) : State :=
  if 0xE00 < bytes.length then
    s.enterFaulted residue ⟨.romTooLarge, none, BitVec.ofNat 16 (min bytes.length 0xFFFF)⟩
  else
    { s.writeBytes 0x200 bytes with romImage := if s.cfg.resetRetainsRom then some bytes else s.romImage }

/-- `reset` (R127, R128): as `init`; under `RESET_RETAINS_ROM` the kept ROM is written back. -/
def State.doReset (s : State) : State :=
  if s.cfg.resetRetainsRom then { s.reinit.writeBytes 0x200 (s.romImage.getD []) with romImage := s.romImage }
  else s.reinit

/-- One timer: down by 1, floored at 0 (R112). -/
def countDown (b : Byte) : Byte := if b.toNat > 0 then b - 1 else b

/-- `update_timers()` (R112). -/
def State.updateTimers (s : State) : State := { s with dt := countDown s.dt, st := countDown s.st }

/-- `keys_cur[k] <- b` for `k` in 0..15; any other index is ignored (R115, R116). -/
def State.setKey (s : State) (k : Int) (b : Bool) : State :=
  if h : 0 ≤ k ∧ k ≤ 15 then { s with keysCur := s.keysCur.set k.toNat b } else s

/-- `key_down(k)` (R115). -/
def State.keyDown (s : State) (k : Int) : State := s.setKey k true

/-- `key_up(k)` (R116). -/
def State.keyUp (s : State) (k : Int) : State := s.setKey k false

/-- The display snapshot (R117). -/
def State.snapshot (s : State) : Grid := s.disp

/-- `has_changed()` (R118): the flag, and the state with it cleared. -/
def State.hasChanged (s : State) : Bool × State := (s.changed, { s with changed := false })

/-- `should_beep()` (R114). -/
def State.shouldBeep (s : State) : Bool := decide (0 < s.st.toNat)

/-- The operations of R4. -/
inductive Op where
  | init
  | loadRom (bytes : List Byte)
  | reset
  | tick
  | updateTimers
  | keyDown (k : Int)
  | keyUp (k : Int)
  | display
  | hasChanged
  | shouldBeep
deriving DecidableEq, Repr

/-- The state after an operation; `residue` is what a fault leaves unspecified (R105). -/
def Op.apply (o : Op) (residue s : State) : State :=
  match o with
  | .init => s.reinit
  | .loadRom bytes => s.loadRom residue bytes
  | .reset => s.doReset
  | .tick => s.tick residue
  | .updateTimers => s.updateTimers
  | .keyDown k => s.keyDown k
  | .keyUp k => s.keyUp k
  | .display => s
  | .hasChanged => s.hasChanged.2
  | .shouldBeep => s

end Sys2Proof.Machine
end

