-- ==== Sys2Proof/Safety.lean ====
section
/-! DEFINITION. The invariant of the block, the states it can reach under every interleaving of its operations, what an
instruction leaves unchanged, and when it faults: the terms the statements use. -/

namespace Sys2Proof

open Machine

/-- The data of a state is in its canonical form: memory (`Memory.wf`), and `rom_image` present exactly under `RESET_RETAINS_ROM`,
with at most `0xE00` bytes (R29, R125). -/
def Machine.State.dataWf (s : State) : Bool :=
  Memory.wf s.cfg.font s.mem &&
    match s.romImage with
    | some bytes => s.cfg.resetRetainsRom && decide (bytes.length ≤ 0xE00)
    | none => !s.cfg.resetRetainsRom

/-- The control state of a running block: `sp` is 0 to 15 (R19), `pc` is at most `0x10FE` and every stack entry at most `0x1000`
(R18), and `stack[0]` is never written (R19). -/
structure ControlOk (s : State) : Prop where
  sp_le : s.sp.toNat ≤ 15
  pc_le : s.pc.toNat ≤ 0x10FE
  stack_le : ∀ j : Fin 16, s.stack[j.val].toNat ≤ 0x1000
  stack_zero : s.stack[0] = 0

/-- The invariant of the block. After a fault only the data form is claimed (R105). -/
structure Inv (s : State) : Prop where
  data : s.dataWf = true
  control : s.status = .running → ControlOk s

/-- The states of a block with parameters `cfg`, under every interleaving of its operations and every state that a fault may
leave (R105, R119). -/
inductive Reachable (cfg : Config) : State → Prop where
  | init : Reachable cfg (State.init cfg)
  | op {s : State} (o : Op) (residue : State) : Reachable cfg s → residue.cfg = cfg → residue.dataWf = true →
      Reachable cfg (o.apply residue s)

/-! ### Frames -/

/-- The parts of the state that an instruction can leave unchanged. -/
inductive Part where
  /-- `V[0..15]`. -/
  | regs
  /-- `I`. -/
  | index
  /-- `pc`. -/
  | pc
  /-- `sp` and the call stack. -/
  | stack
  /-- `DT`. -/
  | delay
  /-- `ST`. -/
  | sound
  /-- Every byte of memory. -/
  | memory
  /-- The framebuffer and the changed flag. -/
  | display
  /-- `kw_latch`. -/
  | latch
  /-- The model's count of random draws. -/
  | draws
  /-- What no instruction writes: both keypad vectors, `status`, `rom_image` and the parameters. -/
  | host
deriving DecidableEq, Repr

/-- The part `p` of `t` is that of `s`. -/
def Kept (p : Part) (s t : State) : Prop :=
  match p with
  | .regs => ∀ r : RegIx, t.getV r = s.getV r
  | .index => t.i = s.i
  | .pc => t.pc = s.pc
  | .stack => t.sp = s.sp ∧ t.stack = s.stack
  | .delay => t.dt = s.dt
  | .sound => t.st = s.st
  | .memory => ∀ a : Nat, t.readByte a = s.readByte a
  | .display => t.disp = s.disp ∧ t.changed = s.changed
  | .latch => t.kwLatch = s.kwLatch
  | .draws => t.draws = s.draws
  | .host => t.keysCur = s.keysCur ∧ t.keysPrev = s.keysPrev ∧ t.status = s.status ∧ t.romImage = s.romImage ∧ t.cfg = s.cfg

/-- Every part outside the list is kept. -/
def KeptBut (parts : List Part) (s t : State) : Prop := ∀ p : Part, p ∉ parts → Kept p s t

/-- Every byte of memory outside the `n` bytes from `a` reads as before. -/
def MemoryKeptOutside (a n : Nat) (s t : State) : Prop := ∀ b : Nat, b < a ∨ a + n ≤ b → t.readByte b = s.readByte b

/-- The parts that the rules of 10_state.md let an instruction write when it completes: `I` (R16), `pc` (R17), `sp` and the stack (R19, R20),
the timers (R21, R22), memory (R32), the display (R25), the latch (R99), registers (R15). `pc` means a write beside the advance of R48. -/
def Instr.writes : Instr → List Part
  | .cls => [.display]
  | .ret => [.pc, .stack]
  | .jp _ => [.pc]
  | .call _ => [.pc, .stack]
  | .seByte _ _ => [.pc]
  | .sneByte _ _ => [.pc]
  | .seReg _ _ => [.pc]
  | .sneReg _ _ => [.pc]
  | .ldByte _ _ => [.regs]
  | .addByte _ _ => [.regs]
  | .ldReg _ _ => [.regs]
  | .orReg _ _ => [.regs]
  | .andReg _ _ => [.regs]
  | .xorReg _ _ => [.regs]
  | .addReg _ _ => [.regs]
  | .sub _ _ => [.regs]
  | .shr _ _ => [.regs]
  | .subn _ _ => [.regs]
  | .shl _ _ => [.regs]
  | .ldI _ => [.index]
  | .jpV0 _ => [.pc]
  | .rnd _ _ => [.regs, .draws]
  | .drw _ _ _ => [.regs, .display]
  | .skp _ => [.pc]
  | .sknp _ => [.pc]
  | .ldVxDT _ => [.regs]
  | .ldVxK _ => [.regs, .pc, .latch]
  | .ldDTVx _ => [.delay]
  | .ldSTVx _ => [.sound]
  | .addI _ => [.index]
  | .ldF _ => [.index]
  | .ldB _ => [.memory]
  | .storeRegs _ => [.memory, .index]
  | .loadRegs _ => [.regs, .index]

/-- Whether an instruction may write register `r`: its destination `Vx`, the registers `V0..Vx` of `Fx65`, and `VF` where R15 gives
a flag output. -/
def Instr.writesReg (r : RegIx) : Instr → Bool
  | .cls => false
  | .ret => false
  | .jp _ => false
  | .call _ => false
  | .seByte _ _ => false
  | .sneByte _ _ => false
  | .seReg _ _ => false
  | .sneReg _ _ => false
  | .ldByte x _ => r == x
  | .addByte x _ => r == x
  | .ldReg x _ => r == x
  | .orReg x _ => r == x || r == VF
  | .andReg x _ => r == x || r == VF
  | .xorReg x _ => r == x || r == VF
  | .addReg x _ => r == x || r == VF
  | .sub x _ => r == x || r == VF
  | .shr x _ => r == x || r == VF
  | .subn x _ => r == x || r == VF
  | .shl x _ => r == x || r == VF
  | .ldI _ => false
  | .jpV0 _ => false
  | .rnd x _ => r == x
  | .drw _ _ _ => r == VF
  | .skp _ => false
  | .sknp _ => false
  | .ldVxDT x => r == x
  | .ldVxK x => r == x
  | .ldDTVx _ => false
  | .ldSTVx _ => false
  | .addI _ => false
  | .ldF _ => false
  | .ldB _ => false
  | .storeRegs _ => false
  | .loadRegs x => decide (r ≤ x)

/-! ### The fault conditions of R103 -/

/-- The fault of an access to the `n` bytes from `I`, when the last lies above `0xFFF` (R34, R104). -/
def rangeFault (s : State) (n : Nat) : Option Fault :=
  if 0 < n ∧ 0xFFF < s.i.toNat + n - 1 then some (.memoryOutOfBounds (s.pc - 2) (BitVec.ofNat 16 (max s.i.toNat 0x1000)))
  else none

/-- The fault of a key test whose register names no key (R94, R95). -/
def keyFault (s : State) (x : RegIx) : Option Fault :=
  if 15 < (s.getV x).toNat then some (.keyIndexOutOfRange (s.pc - 2) ((s.getV x).setWidth 16)) else none

/-- The one fault condition of each instruction (R103, R106), with what the fault records (R104); none where R103 names none. -/
def Instr.faultIn (s : State) : Instr → Option Fault
  | .cls => none
  | .ret => if s.sp = 0 then some (.stackUnderflow (s.pc - 2)) else none
  | .jp _ => none
  | .call nnn => if s.sp = 15 then some (.stackOverflow (s.pc - 2) (nnn.setWidth 16)) else none
  | .seByte _ _ => none
  | .sneByte _ _ => none
  | .seReg _ _ => none
  | .sneReg _ _ => none
  | .ldByte _ _ => none
  | .addByte _ _ => none
  | .ldReg _ _ => none
  | .orReg _ _ => none
  | .andReg _ _ => none
  | .xorReg _ _ => none
  | .addReg _ _ => none
  | .sub _ _ => none
  | .shr _ _ => none
  | .subn _ _ => none
  | .shl _ _ => none
  | .ldI _ => none
  | .jpV0 _ => none
  | .rnd _ _ => none
  | .drw _ _ n => rangeFault s n
  | .skp x => keyFault s x
  | .sknp x => keyFault s x
  | .ldVxDT _ => none
  | .ldVxK _ => none
  | .ldDTVx _ => none
  | .ldSTVx _ => none
  | .addI x => if 0xFFFF < s.i.toNat + (s.getV x).toNat then some (.indexOverflow (s.pc - 2) s.i) else none
  | .ldF _ => none
  | .ldB _ => rangeFault s 3
  | .storeRegs x => rangeFault s (x.val + 1)
  | .loadRegs x => rangeFault s (x.val + 1)

/-! ### Sprites and keys, in the spec's words -/

/-- Whether a set bit of the sprite of `n` bytes at `I`, drawn from row `y0` and column `x0`, lands on `(row, col)`: bit 7 of a row at
column `x0`, bit 0 at `x0 + 7`, nothing wraps (R87, R90). -/
def SpriteBitAt (s : State) (n y0 x0 row col : Nat) : Prop :=
  y0 ≤ row ∧ row < y0 + n ∧ x0 ≤ col ∧ col ≤ x0 + 7 ∧ (s.readByte (s.i.toNat + (row - y0))).getLsbD (x0 + 7 - col) = true

/-- Key `k` went from up to down since the last snapshot (R97). -/
def Pressed (s : State) (k : Fin 16) : Prop := s.keysPrev[k.val] = false ∧ s.keysCur[k.val] = true

/-- Key `k` went from down to up since the last snapshot (R97). -/
def Released (s : State) (k : Fin 16) : Prop := s.keysPrev[k.val] = true ∧ s.keysCur[k.val] = false

/-- The two states differ at most in stack entries that no active frame owns: those above `sp`, and `stack[0]` (R19, R20). -/
def SameButStaleStack (s t : State) : Prop :=
  (∀ j : Fin 16, 0 < j.val → j.val ≤ s.sp.toNat → t.stack[j.val] = s.stack[j.val]) ∧ { t with stack := s.stack } = s

end Sys2Proof
end

