-- ==== Sys2Proof/Certificates/Slice0/Obligations.lean ====
section
/-! DEFINITION. The statements for the provers. `exec` runs with `pc` already at the instruction's address + 2 (R48); where a
statement gives a word, it is the spec's encoding written as a number. -/

open Sys2Proof Sys2Proof.Machine

/-! ### Encoding -/

/-- R51, R56: a few words of every family decode to the instruction their digits spell. -/
def Obligations.SpelledWordsDecode : Prop :=
  decode 0x00E0 = .ok .cls ∧ decode 0x00EE = .ok .ret ∧ decode 0x1234 = .ok (.jp 0x234) ∧
  decode 0x2206 = .ok (.call 0x206) ∧ decode 0x3342 = .ok (.seByte 3 0x42) ∧ decode 0x9120 = .ok (.sneReg 1 2) ∧
  decode 0x6A7B = .ok (.ldByte 10 0x7B) ∧ decode 0x8014 = .ok (.addReg 0 1) ∧ decode 0x801E = .ok (.shl 0 1) ∧
  decode 0xA300 = .ok (.ldI 0x300) ∧ decode 0xD235 = .ok (.drw 2 3 5) ∧ decode 0xE1A1 = .ok (.sknp 1) ∧
  decode 0xF40A = .ok (.ldVxK 4) ∧ decode 0xF255 = .ok (.storeRegs 2) ∧
  decodeBytes [0xF5, 0x33, 0x12] = .ok (.ldB 5, [0x12])

/-- R50, R51, R56: decoding the word, and the two bytes, of a well-formed instruction gives that instruction with every operand. -/
def Obligations.DecodeOfEncode : Prop :=
  ∀ (i : Instr) (rest : List Byte), i.wf = true →
    decode (encode i) = .ok i ∧ decodeBytes (encodeBytes i ++ rest) = .ok (i, rest)

/-- R51, R52: a word that decodes gives a well-formed instruction whose word it is: no bit of the word is dropped. -/
def Obligations.EncodeOfDecode : Prop :=
  ∀ (op : Word) (i : Instr), decode op = .ok i → i.wf = true ∧ encode i = op

/-- R52: the decoder agrees with the `match` and `mask` columns of the opcode table, and the patterns are pairwise disjoint: a word
that matches a row decodes to that row's instruction, and a word that decodes matches its row. -/
def Obligations.DecodeAgreesWithMatchAndMask : Prop :=
  ∀ op : Word,
    (∀ i : Instr, decode op = .ok i → op &&& i.matchMask.2 = i.matchMask.1) ∧
    (∀ i : Instr, op &&& i.matchMask.2 = i.matchMask.1 → ∃ j, decode op = .ok j ∧ j.matchMask = i.matchMask)

/-- R54: the words that decode to nothing are exactly the listed groups, and each is reported raw. -/
def Obligations.IllegalWordsAreTheListedGroups : Prop :=
  ∀ op : Word,
    decode op = .error (.unknownOpcode op) ↔
      let lead := op.toNat / 4096
      let low := op.toNat % 16
      let kk := op.toNat % 256
      (lead = 0x0 ∧ op ≠ 0x00E0 ∧ op ≠ 0x00EE) ∨ (lead = 0x5 ∧ low ≠ 0) ∨
      (lead = 0x8 ∧ low ∈ [0x8, 0x9, 0xA, 0xB, 0xC, 0xD, 0xF]) ∨ (lead = 0x9 ∧ low ≠ 0) ∨
      (lead = 0xE ∧ kk ∉ [0x9E, 0xA1]) ∨
      (lead = 0xF ∧ kk ∉ [0x07, 0x0A, 0x15, 0x18, 0x1E, 0x29, 0x33, 0x55, 0x65])

/-! ### The tick -/

/-- R46, R48, R49: when the big-endian word at `pc` decodes to `i`, a step of a running block is `exec i` with `pc` two further, and
then the keypad snapshot; a fault passes through without it. -/
def Obligations.StepRunsTheDecodedInstruction : Prop :=
  ∀ (s : State) (i : Instr), s.status = .running → s.pc.toNat ≤ 0xFFE →
    decode (BitVec.ofNat 16 ((s.readByte s.pc.toNat).toNat * 256 + (s.readByte (s.pc.toNat + 1)).toNat)) = .ok i →
    step s = match exec i { s with pc := s.pc + 2 } with
      | .next t => .next { t with keysPrev := t.keysCur }
      | .fault f => .fault f
      | .refused r => .refused r

/-- R47: a fetch at `pc ≥ 0xFFF` faults with `max(pc, 0x1000)`; at a lower `pc`, odd or even, it reads the big-endian word of the two bytes at `pc`
and decodes it. -/
def Obligations.FetchReadsTwoBytesOrFaults : Prop :=
  ∀ s : State, s.status = .running →
    (0xFFF ≤ s.pc.toNat → step s = .fault (.memoryOutOfBounds s.pc (BitVec.ofNat 16 (max s.pc.toNat 0x1000)))) ∧
    (s.pc.toNat ≤ 0xFFE →
      let op := BitVec.ofNat 16 ((s.readByte s.pc.toNat).toNat * 256 + (s.readByte (s.pc.toNat + 1)).toNat)
      fetchDecode s = match decode op with
        | .ok i => .ok i
        | .error _ => .error (.unknownOpcode s.pc op))

/-- R53: a fetched word that matches no pattern faults, reporting the raw word. -/
def Obligations.UnknownOpcodeFaultsWithTheRawWord : Prop :=
  ∀ (s : State) (op : Word), s.status = .running → s.pc.toNat ≤ 0xFFE →
    op.toNat = (s.readByte s.pc.toNat).toNat * 256 + (s.readByte (s.pc.toNat + 1)).toNat →
    (∀ i, decode op ≠ .ok i) → step s = .fault (.unknownOpcode s.pc op)

/-- R107 (its first clause): in Faulted, `tick` has no step. -/
def Obligations.NoStepWhileFaulted : Prop :=
  ∀ (s residue : State) (r : FaultRecord), s.status = .faulted r →
    step s = .fault (.halted r) ∧ s.tick residue = s

/-- R26, R49: every tick that completes ends with the keypad snapshot, runs only while Running, and writes neither `keys_cur` nor
`status`. -/
def Obligations.CompletedTickTakesTheKeypadSnapshot : Prop :=
  ∀ s t : State, step s = .next t →
    t.keysPrev = s.keysCur ∧ t.keysCur = s.keysCur ∧ s.status = .running ∧ t.status = .running

/-- R102, R104: a fault of a running block's tick leaves `status = Faulted(cause, at, info)` with `at` the address of the faulting
instruction; `info` and the cause are those of the fault. `sp ≤ 15` is R19's invariant. -/
def Obligations.FaultingTickRecordsItsStatus : Prop :=
  ∀ (s residue : State) (f : Fault), s.status = .running → s.sp.toNat ≤ 15 → step s = .fault f →
    ∃ r : FaultRecord, f.record = some r ∧ r.origin = some s.pc ∧ (s.tick residue).status = .faulted r ∧
      ∀ residue' : State, step (s.tick residue') = .fault (.halted r)

/-- R103, R106: in every state with a legal `sp`, each instruction completes unless its one fault condition holds, and then it raises
exactly that fault. -/
def Obligations.InstructionsFaultExactlyAsTabled : Prop :=
  ∀ (i : Instr) (s : State), s.sp.toNat ≤ 15 →
    match i.faultIn s with
    | some f => exec i s = .fault f
    | none => ∃ t, exec i s = .next t

/-! ### Control flow -/

/-- R59: `RET` pops the return address at `sp` and leaves its entry; with `sp = 0` it faults with `info` 0. -/
def Obligations.RetPopsTheCallStack : Prop :=
  decode 0x00EE = .ok .ret ∧
  ∀ s : State,
    (s.sp = 0 → exec .ret s = .fault (.stackUnderflow (s.pc - 2)) ∧
      (Fault.stackUnderflow (s.pc - 2)).record = some ⟨.stackUnderflow, some (s.pc - 2), 0⟩) ∧
    (∀ h : s.sp.toNat < 16, s.sp ≠ 0 →
      ∃ t, exec .ret s = .next t ∧ t.pc = s.stack[s.sp.toNat] ∧ t.sp = s.sp - 1 ∧ t.stack = s.stack ∧
        KeptBut [.pc, .stack] s t)

/-- R60: `JP addr` sets `pc` to `nnn`. -/
def Obligations.JpSetsPc : Prop :=
  ∀ (nnn : Addr) (s : State),
    decode (BitVec.ofNat 16 (0x1000 + nnn.toNat)) = .ok (.jp nnn) ∧
    ∃ t, exec (.jp nnn) s = .next t ∧ t.pc.toNat = nnn.toNat ∧ KeptBut [.pc] s t

/-- R61 (with D4): `CALL` pushes the return address at the incremented `sp`, or overflows at `sp = 15`. -/
def Obligations.CallPushesTheReturnAddress : Prop :=
  ∀ (nnn : Addr) (s : State),
    decode (BitVec.ofNat 16 (0x2000 + nnn.toNat)) = .ok (.call nnn) ∧
    (s.sp = 15 → exec (.call nnn) s = .fault (.stackOverflow (s.pc - 2) (nnn.setWidth 16))) ∧
    (s.sp.toNat < 15 →
      ∃ t, exec (.call nnn) s = .next t ∧ t.pc.toNat = nnn.toNat ∧ t.sp.toNat = s.sp.toNat + 1 ∧
        (∀ j : Fin 16, t.stack[j.val] = if j.val = s.sp.toNat + 1 then s.pc else s.stack[j.val]) ∧
        KeptBut [.pc, .stack] s t)

/-- R59, R61: a call and then a return come back to the instruction after the call with the same frames. -/
def Obligations.ReturnUndoesCall : Prop :=
  ∀ (nnn : Addr) (s : State), s.sp.toNat < 15 →
    ∃ t u, exec (.call nnn) s = .next t ∧ exec .ret t = .next u ∧ u.pc = s.pc ∧ u.sp = s.sp ∧
      (∀ j : Fin 16, j.val ≤ s.sp.toNat → u.stack[j.val] = s.stack[j.val]) ∧ KeptBut [.stack] s u

/-- R62, R63: the skips on a byte. -/
def Obligations.SkipsOnByte : Prop :=
  ∀ (x : RegIx) (kk : Byte) (s : State),
    decode (BitVec.ofNat 16 (0x3000 + x.val * 0x100 + kk.toNat)) = .ok (.seByte x kk) ∧
    decode (BitVec.ofNat 16 (0x4000 + x.val * 0x100 + kk.toNat)) = .ok (.sneByte x kk) ∧
    (∃ t, exec (.seByte x kk) s = .next t ∧ t.pc = (if s.getV x = kk then s.pc + 2 else s.pc) ∧ KeptBut [.pc] s t) ∧
    (∃ t, exec (.sneByte x kk) s = .next t ∧ t.pc = (if s.getV x = kk then s.pc else s.pc + 2) ∧ KeptBut [.pc] s t)

/-- R64, R65: the skips on two registers. -/
def Obligations.SkipsOnRegisters : Prop :=
  ∀ (x y : RegIx) (s : State),
    decode (BitVec.ofNat 16 (0x5000 + x.val * 0x100 + y.val * 0x10)) = .ok (.seReg x y) ∧
    decode (BitVec.ofNat 16 (0x9000 + x.val * 0x100 + y.val * 0x10)) = .ok (.sneReg x y) ∧
    (∃ t, exec (.seReg x y) s = .next t ∧ t.pc = (if s.getV x = s.getV y then s.pc + 2 else s.pc) ∧ KeptBut [.pc] s t) ∧
    (∃ t, exec (.sneReg x y) s = .next t ∧ t.pc = (if s.getV x = s.getV y then s.pc else s.pc + 2) ∧ KeptBut [.pc] s t)

/-- R66 (with D14): `JP V0, addr` adds `V0`, unmasked. -/
def Obligations.JpV0AddsV0Unmasked : Prop :=
  ∀ (nnn : Addr) (s : State),
    decode (BitVec.ofNat 16 (0xB000 + nnn.toNat)) = .ok (.jpV0 nnn) ∧
    ∃ t, exec (.jpV0 nnn) s = .next t ∧ t.pc.toNat = nnn.toNat + (s.getV 0).toNat ∧ KeptBut [.pc] s t

/-! ### Register loads and the ALU -/

/-- R68: a whole tick of `6xkk`: `Vx = kk`, `pc` two further, and nothing else but the keypad snapshot. -/
def Obligations.TickOfLoadByte : Prop :=
  ∀ (x : RegIx) (kk : Byte) (s : State), s.status = .running → s.pc.toNat ≤ 0xFFE →
    (s.readByte s.pc.toNat).toNat = 0x60 + x.val → s.readByte (s.pc.toNat + 1) = kk →
    ∃ t, step s = .next t ∧ t.getV x = kk ∧ t.pc = s.pc + 2 ∧ t.keysPrev = s.keysCur ∧
      (∀ r, r ≠ x → t.getV r = s.getV r) ∧
      KeptBut [.regs, .pc] s { t with keysPrev := s.keysPrev }

/-- R68, R69, R70: the loads and the add without a flag write only `Vx`, `VF` included as data. -/
def Obligations.LoadsAndAddByteWriteOnlyVx : Prop :=
  ∀ (x y : RegIx) (kk : Byte) (s : State),
    decode (BitVec.ofNat 16 (0x6000 + x.val * 0x100 + kk.toNat)) = .ok (.ldByte x kk) ∧
    decode (BitVec.ofNat 16 (0x7000 + x.val * 0x100 + kk.toNat)) = .ok (.addByte x kk) ∧
    decode (BitVec.ofNat 16 (0x8000 + x.val * 0x100 + y.val * 0x10)) = .ok (.ldReg x y) ∧
    (∃ t, exec (.ldByte x kk) s = .next t ∧ t.getV x = kk ∧ (∀ r, r ≠ x → t.getV r = s.getV r) ∧ KeptBut [.regs] s t) ∧
    (∃ t, exec (.addByte x kk) s = .next t ∧ (t.getV x).toNat = ((s.getV x).toNat + kk.toNat) % 256 ∧
      (∀ r, r ≠ x → t.getV r = s.getV r) ∧ KeptBut [.regs] s t) ∧
    (∃ t, exec (.ldReg x y) s = .next t ∧ t.getV x = s.getV y ∧ (∀ r, r ≠ x → t.getV r = s.getV r) ∧ KeptBut [.regs] s t)

/-- R71, R72, R73 (order of writes by D3): the logical operations, which always leave `VF = 0`. -/
def Obligations.LogicalOpsResetVF : Prop :=
  ∀ (x y : RegIx) (s : State),
    decode (BitVec.ofNat 16 (0x8001 + x.val * 0x100 + y.val * 0x10)) = .ok (.orReg x y) ∧
    decode (BitVec.ofNat 16 (0x8002 + x.val * 0x100 + y.val * 0x10)) = .ok (.andReg x y) ∧
    decode (BitVec.ofNat 16 (0x8003 + x.val * 0x100 + y.val * 0x10)) = .ok (.xorReg x y) ∧
    (∃ t, exec (.orReg x y) s = .next t ∧
      (∀ r : RegIx, t.getV r = if r = 15 then 0 else if r = x then s.getV x ||| s.getV y else s.getV r) ∧ KeptBut [.regs] s t) ∧
    (∃ t, exec (.andReg x y) s = .next t ∧
      (∀ r : RegIx, t.getV r = if r = 15 then 0 else if r = x then s.getV x &&& s.getV y else s.getV r) ∧ KeptBut [.regs] s t) ∧
    (∃ t, exec (.xorReg x y) s = .next t ∧
      (∀ r : RegIx, t.getV r = if r = 15 then 0 else if r = x then s.getV x ^^^ s.getV y else s.getV r) ∧ KeptBut [.regs] s t)

/-- R74 (order of writes by D3): the 9-bit sum, its low 8 bits in `Vx` and the carry in `VF`. -/
def Obligations.AddRegistersCarriesIntoVF : Prop :=
  ∀ (x y : RegIx) (s : State),
    decode (BitVec.ofNat 16 (0x8004 + x.val * 0x100 + y.val * 0x10)) = .ok (.addReg x y) ∧
    ∃ t, exec (.addReg x y) s = .next t ∧
      (∀ r : RegIx, (t.getV r).toNat =
        if r = 15 then (if 255 < (s.getV x).toNat + (s.getV y).toNat then 1 else 0)
        else if r = x then ((s.getV x).toNat + (s.getV y).toNat) % 256 else (s.getV r).toNat) ∧
      KeptBut [.regs] s t

/-- R75, R77 (order of writes by D3): both subtractions wrap modulo 256, and `VF` is the strict comparison of the old operands. -/
def Obligations.SubtractionsCompareStrictly : Prop :=
  ∀ (x y : RegIx) (s : State),
    decode (BitVec.ofNat 16 (0x8005 + x.val * 0x100 + y.val * 0x10)) = .ok (.sub x y) ∧
    decode (BitVec.ofNat 16 (0x8007 + x.val * 0x100 + y.val * 0x10)) = .ok (.subn x y) ∧
    (∃ t, exec (.sub x y) s = .next t ∧
      (∀ r : RegIx, (t.getV r).toNat =
        if r = 15 then (if (s.getV y).toNat < (s.getV x).toNat then 1 else 0)
        else if r = x then ((s.getV x).toNat + 256 - (s.getV y).toNat) % 256 else (s.getV r).toNat) ∧
      KeptBut [.regs] s t) ∧
    (∃ t, exec (.subn x y) s = .next t ∧
      (∀ r : RegIx, (t.getV r).toNat =
        if r = 15 then (if (s.getV x).toNat < (s.getV y).toNat then 1 else 0)
        else if r = x then ((s.getV y).toNat + 256 - (s.getV x).toNat) % 256 else (s.getV r).toNat) ∧
      KeptBut [.regs] s t)

/-- R76, R78 (order of writes by D3): both shifts take `Vy`, and `VF` is the bit shifted out. -/
def Obligations.ShiftsTakeVy : Prop :=
  ∀ (x y : RegIx) (s : State),
    decode (BitVec.ofNat 16 (0x8006 + x.val * 0x100 + y.val * 0x10)) = .ok (.shr x y) ∧
    decode (BitVec.ofNat 16 (0x800E + x.val * 0x100 + y.val * 0x10)) = .ok (.shl x y) ∧
    (∃ t, exec (.shr x y) s = .next t ∧
      (∀ r : RegIx, (t.getV r).toNat =
        if r = 15 then (s.getV y).toNat % 2 else if r = x then (s.getV y).toNat / 2 else (s.getV r).toNat) ∧
      KeptBut [.regs] s t) ∧
    (∃ t, exec (.shl x y) s = .next t ∧
      (∀ r : RegIx, (t.getV r).toNat =
        if r = 15 then (s.getV y).toNat / 128 else if r = x then (s.getV y).toNat * 2 % 256 else (s.getV r).toNat) ∧
      KeptBut [.regs] s t)

/-- R79 (with D21): `RND` completes, writes only `Vx`, every bit that `kk` clears is 0, and `kk = 0xFF` gives the raw draw, whatever
`Random8` gives. -/
def Obligations.RandomByteIsMasked : Prop :=
  ∀ (x : RegIx) (kk : Byte) (s : State),
    decode (BitVec.ofNat 16 (0xC000 + x.val * 0x100 + kk.toNat)) = .ok (.rnd x kk) ∧
    ∃ t, exec (.rnd x kk) s = .next t ∧ t.getV x = Config.random8 s.draws &&& kk ∧ t.getV x &&& ~~~kk = 0 ∧
      (kk = 0xFF → t.getV x = Config.random8 s.draws) ∧ t.draws = s.draws + 1 ∧
      (∀ r, r ≠ x → t.getV r = s.getV r) ∧ KeptBut [.regs, .draws] s t

/-! ### Index register and memory -/

/-- R81, R83: `LD I, addr` and `LD F, Vx`, whose byte is not masked. -/
def Obligations.IndexLoads : Prop :=
  ∀ (nnn : Addr) (x : RegIx) (s : State),
    decode (BitVec.ofNat 16 (0xA000 + nnn.toNat)) = .ok (.ldI nnn) ∧
    decode (BitVec.ofNat 16 (0xF029 + x.val * 0x100)) = .ok (.ldF x) ∧
    (∃ t, exec (.ldI nnn) s = .next t ∧ t.i.toNat = nnn.toNat ∧ KeptBut [.index] s t) ∧
    (∃ t, exec (.ldF x) s = .next t ∧ t.i.toNat = (s.getV x).toNat * 5 ∧ KeptBut [.index] s t)

/-- R82 (with D12): `ADD I, Vx` adds exactly, writes no flag, and faults with the old `I` when the sum passes `0xFFFF`. -/
def Obligations.AddIndexNeverWraps : Prop :=
  ∀ (x : RegIx) (s : State),
    decode (BitVec.ofNat 16 (0xF01E + x.val * 0x100)) = .ok (.addI x) ∧
    (s.i.toNat + (s.getV x).toNat ≤ 0xFFFF →
      ∃ t, exec (.addI x) s = .next t ∧ t.i.toNat = s.i.toNat + (s.getV x).toNat ∧ KeptBut [.index] s t) ∧
    (0xFFFF < s.i.toNat + (s.getV x).toNat → exec (.addI x) s = .fault (.indexOverflow (s.pc - 2) s.i))

/-- R84: `LD B, Vx` stores the three decimal digits at `I`, and faults when the last would lie above `0xFFF`. -/
def Obligations.DecimalDigitsStored : Prop :=
  ∀ (x : RegIx) (s : State),
    decode (BitVec.ofNat 16 (0xF033 + x.val * 0x100)) = .ok (.ldB x) ∧
    (s.i.toNat + 2 ≤ 0xFFF →
      ∃ t, exec (.ldB x) s = .next t ∧
        (t.readByte s.i.toNat).toNat = (s.getV x).toNat / 100 ∧
        (t.readByte (s.i.toNat + 1)).toNat = (s.getV x).toNat / 10 % 10 ∧
        (t.readByte (s.i.toNat + 2)).toNat = (s.getV x).toNat % 10 ∧
        MemoryKeptOutside s.i.toNat 3 s t ∧ KeptBut [.memory] s t) ∧
    (0xFFF < s.i.toNat + 2 →
      exec (.ldB x) s = .fault (.memoryOutOfBounds (s.pc - 2) (BitVec.ofNat 16 (max s.i.toNat 0x1000))))

/-- R85: `LD [I], Vx` stores `V0..Vx` at `I..I+x` and advances `I` by `x + 1`, or faults on the range. -/
def Obligations.RegistersStored : Prop :=
  ∀ (x : RegIx) (s : State),
    decode (BitVec.ofNat 16 (0xF055 + x.val * 0x100)) = .ok (.storeRegs x) ∧
    (s.i.toNat + x.val ≤ 0xFFF →
      ∃ t, exec (.storeRegs x) s = .next t ∧ (∀ j : RegIx, j ≤ x → t.readByte (s.i.toNat + j.val) = s.getV j) ∧
        t.i.toNat = s.i.toNat + x.val + 1 ∧ MemoryKeptOutside s.i.toNat (x.val + 1) s t ∧
        KeptBut [.memory, .index] s t) ∧
    (0xFFF < s.i.toNat + x.val →
      exec (.storeRegs x) s = .fault (.memoryOutOfBounds (s.pc - 2) (BitVec.ofNat 16 (max s.i.toNat 0x1000))))

/-- R86: `LD Vx, [I]` loads `V0..Vx` from `I..I+x` and advances `I` by `x + 1`, or faults on the range. -/
def Obligations.RegistersLoaded : Prop :=
  ∀ (x : RegIx) (s : State),
    decode (BitVec.ofNat 16 (0xF065 + x.val * 0x100)) = .ok (.loadRegs x) ∧
    (s.i.toNat + x.val ≤ 0xFFF →
      ∃ t, exec (.loadRegs x) s = .next t ∧
        (∀ j : RegIx, t.getV j = if j ≤ x then s.readByte (s.i.toNat + j.val) else s.getV j) ∧
        t.i.toNat = s.i.toNat + x.val + 1 ∧ KeptBut [.regs, .index] s t) ∧
    (0xFFF < s.i.toNat + x.val →
      exec (.loadRegs x) s = .fault (.memoryOutOfBounds (s.pc - 2) (BitVec.ofNat 16 (max s.i.toNat 0x1000))))

/-- R85, R86: storing registers and loading them back from the same `I` restores them. -/
def Obligations.LoadRestoresStoredRegisters : Prop :=
  ∀ (x : RegIx) (s : State), s.i.toNat + x.val ≤ 0xFFF →
    ∃ t u, exec (.storeRegs x) s = .next t ∧
      exec (.loadRegs x) { t with i := s.i, v := Vector.replicate 16 0 } = .next u ∧ ∀ j : RegIx, j ≤ x → u.getV j = s.getV j

/-! ### Display -/

/-- R88: `CLS` clears every pixel and sets `changed`, whatever the display held. -/
def Obligations.ClsClearsAndMarksChanged : Prop :=
  decode 0x00E0 = .ok .cls ∧
  ∀ s : State, ∃ t, exec .cls s = .next t ∧ (∀ (r : Fin 32) (c : Fin 64), t.disp[r.val][c.val] = false) ∧ t.changed = true ∧
    KeptBut [.display] s t

/-- R89, R90, R93 (with D5, D6, D7): `DRW` completes when its `n` rows lie in memory, flips exactly the pixels that set sprite bits land
on, clipped at the edges, and writes no register but `VF`; else it faults on the range. -/
def Obligations.DrawFlipsTheCoveredPixels : Prop :=
  ∀ (x y : RegIx) (n : Nat) (s : State), n < 16 →
    decode (BitVec.ofNat 16 (0xD000 + x.val * 0x100 + y.val * 0x10 + n)) = .ok (.drw x y n) ∧
    (n = 0 ∨ s.i.toNat + n ≤ 0x1000 →
      ∃ t, exec (.drw x y n) s = .next t ∧
        (∀ (r : Fin 32) (c : Fin 64), t.disp[r.val][c.val] ≠ s.disp[r.val][c.val] ↔
          SpriteBitAt s n ((s.getV y).toNat % 32) ((s.getV x).toNat % 64) r.val c.val) ∧
        (∀ r : RegIx, r ≠ 15 → t.getV r = s.getV r) ∧ KeptBut [.regs, .display] s t) ∧
    (0 < n → 0x1000 < s.i.toNat + n →
      exec (.drw x y n) s = .fault (.memoryOutOfBounds (s.pc - 2) (BitVec.ofNat 16 (max s.i.toNat 0x1000))))

/-- R91: after a draw `VF` is 1 if at least one pixel went from 1 to 0, and 0 otherwise. -/
def Obligations.DrawReportsCollision : Prop :=
  ∀ (x y : RegIx) (n : Nat) (s t : State), exec (.drw x y n) s = .next t →
    ((∃ (r : Fin 32) (c : Fin 64), s.disp[r.val][c.val] = true ∧ t.disp[r.val][c.val] = false) → t.getV 15 = 1) ∧
    ((∀ (r : Fin 32) (c : Fin 64), ¬ (s.disp[r.val][c.val] = true ∧ t.disp[r.val][c.val] = false)) → t.getV 15 = 0)

/-- R92 (with D8): a draw sets `changed` when it flips a pixel, and otherwise leaves it as it was. -/
def Obligations.DrawMarksChangedOnAFlip : Prop :=
  ∀ (x y : RegIx) (n : Nat) (s t : State), exec (.drw x y n) s = .next t →
    (t.changed = true ↔ s.changed = true ∨ ∃ (r : Fin 32) (c : Fin 64), t.disp[r.val][c.val] ≠ s.disp[r.val][c.val])

/-- §8 of the source (95_test_vectors.md S3), R91: the same sprite drawn twice at the same place restores the display, and the second `VF`
is 1 exactly when the first draw left one of its pixels set. -/
def Obligations.DrawTwiceRestoresTheDisplay : Prop :=
  ∀ (x y : RegIx) (n : Nat) (s t : State), x ≠ 15 → y ≠ 15 → exec (.drw x y n) s = .next t →
    ∃ u, exec (.drw x y n) t = .next u ∧ u.disp = s.disp ∧
      (u.getV 15 = 1 ↔ ∃ (r : Fin 32) (c : Fin 64), s.disp[r.val][c.val] = false ∧ t.disp[r.val][c.val] = true)

/-- R93 (with D7): `Dxy0` reads no memory and faults for no `I`: `VF = 0`, and the display and `changed` are kept. -/
def Obligations.EmptySpriteDrawsNothing : Prop :=
  ∀ (x y : RegIx) (s : State), ∃ t, exec (.drw x y 0) s = .next t ∧ t.getV 15 = 0 ∧ (∀ r : RegIx, r ≠ 15 → t.getV r = s.getV r) ∧
    KeptBut [.regs] s t

/-! ### Keypad and timers -/

/-- R94, R95 (with D9): the key tests look at the current state of key `V[x]`, and fault when `V[x]` names no key. -/
def Obligations.SkipsOnKey : Prop :=
  ∀ (x : RegIx) (s : State),
    decode (BitVec.ofNat 16 (0xE09E + x.val * 0x100)) = .ok (.skp x) ∧
    decode (BitVec.ofNat 16 (0xE0A1 + x.val * 0x100)) = .ok (.sknp x) ∧
    (∀ h : (s.getV x).toNat < 16,
      (∃ t, exec (.skp x) s = .next t ∧
        t.pc = (if s.keysCur[(s.getV x).toNat] = true then s.pc + 2 else s.pc) ∧ KeptBut [.pc] s t) ∧
      (∃ t, exec (.sknp x) s = .next t ∧
        t.pc = (if s.keysCur[(s.getV x).toNat] = true then s.pc else s.pc + 2) ∧ KeptBut [.pc] s t)) ∧
    (15 < (s.getV x).toNat →
      exec (.skp x) s = .fault (.keyIndexOutOfRange (s.pc - 2) ((s.getV x).setWidth 16)) ∧
      exec (.sknp x) s = .fault (.keyIndexOutOfRange (s.pc - 2) ((s.getV x).setWidth 16)))

/-- R96, R100, R101: reading `DT`, and setting `DT` and `ST`. -/
def Obligations.TimerAccess : Prop :=
  ∀ (x : RegIx) (s : State),
    decode (BitVec.ofNat 16 (0xF007 + x.val * 0x100)) = .ok (.ldVxDT x) ∧
    decode (BitVec.ofNat 16 (0xF015 + x.val * 0x100)) = .ok (.ldDTVx x) ∧
    decode (BitVec.ofNat 16 (0xF018 + x.val * 0x100)) = .ok (.ldSTVx x) ∧
    (∃ t, exec (.ldVxDT x) s = .next t ∧ t.getV x = s.dt ∧ (∀ r, r ≠ x → t.getV r = s.getV r) ∧ KeptBut [.regs] s t) ∧
    (∃ t, exec (.ldDTVx x) s = .next t ∧ t.dt = s.getV x ∧ KeptBut [.delay] s t) ∧
    (∃ t, exec (.ldSTVx x) s = .next t ∧ t.st = s.getV x ∧ (t.shouldBeep = true ↔ s.getV x ≠ 0) ∧ KeptBut [.sound] s t)

/-- R97, R98, R99 (with D10, D11): the four outcomes of the key wait, each a completed instruction: a press arms the latch and re-blocks;
with no press, the lowest released key completes it, unless the latch gates it and is not armed; else it re-blocks. -/
def Obligations.KeyWaitOutcomes : Prop :=
  ∀ (x : RegIx) (s : State),
    decode (BitVec.ofNat 16 (0xF00A + x.val * 0x100)) = .ok (.ldVxK x) ∧
    ((∃ k, Pressed s k) →
      ∃ t, exec (.ldVxK x) s = .next t ∧ t.pc = s.pc - 2 ∧ t.kwLatch = true ∧ KeptBut [.pc, .latch] s t) ∧
    (∀ k : Fin 16, (∀ j, ¬ Pressed s j) → Released s k → (∀ j, j < k → ¬ Released s j) →
      (s.cfg.keywaitLatchGates = false ∨ s.kwLatch = true) →
      ∃ t, exec (.ldVxK x) s = .next t ∧ (t.getV x).toNat = k.val ∧ (∀ r, r ≠ x → t.getV r = s.getV r) ∧
        t.kwLatch = false ∧ KeptBut [.regs, .latch] s t) ∧
    ((∀ j, ¬ Pressed s j) → ((∀ j, ¬ Released s j) ∨ (s.cfg.keywaitLatchGates = true ∧ s.kwLatch = false)) →
      ∃ t, exec (.ldVxK x) s = .next t ∧ t.pc = s.pc - 2 ∧ KeptBut [.pc] s t)

/-- R98: on a tick of `Fx0A`, a press takes precedence over any release: the latch is armed, `pc` stays, no register is written, and after the
tick `keys_prev` shows every key as it is, so a release on that tick has no edge left. With neither edge, `pc` stays too. -/
def Obligations.PressTakesPrecedenceOverRelease : Prop :=
  ∀ (x : RegIx) (s : State), s.status = .running → fetchDecode s = .ok (.ldVxK x) →
    ((∃ k, Pressed s k) →
      ∃ t, step s = .next t ∧ t.kwLatch = true ∧ t.pc = s.pc ∧ (∀ r, t.getV r = s.getV r) ∧ t.keysPrev = s.keysCur ∧
        ∀ k, ¬ Released t k) ∧
    ((∀ k, ¬ Pressed s k ∧ ¬ Released s k) →
      ∃ t, step s = .next t ∧ t.kwLatch = s.kwLatch ∧ t.pc = s.pc ∧ ∀ r, t.getV r = s.getV r)

/-- §8 of the source (95_test_vectors.md S4), R97, R99: with every key up, a press of `k`, a tick, its release and a tick complete an `Fx0A` with
`Vx = k`, under both values of `KEYWAIT_LATCH_GATES`. -/
def Obligations.PressThenReleaseCompletesTheWait : Prop :=
  ∀ (x : RegIx) (k : Fin 16) (s r1 r2 : State), s.status = .running → fetchDecode s = .ok (.ldVxK x) →
    s.keysCur = Vector.replicate 16 false → s.keysPrev = Vector.replicate 16 false →
    let t := (s.keyDown k.val).tick r1
    let u := (t.keyUp k.val).tick r2
    t.pc = s.pc ∧ t.kwLatch = true ∧ u.status = .running ∧ (u.getV x).toNat = k.val ∧ u.pc = s.pc + 2 ∧ u.kwLatch = false

/-- R27, R99 (with D11): with `KEYWAIT_LATCH_GATES = false` nothing reads the latch: a state that differs in it alone runs every instruction to a
state that differs in it alone, or to the same fault. -/
def Obligations.UngatedLatchIsInvisible : Prop :=
  ∀ (i : Instr) (s : State) (b : Bool), s.cfg.keywaitLatchGates = false →
    match exec i s with
    | .next t => ∃ c, exec i { s with kwLatch := b } = .next { t with kwLatch := c }
    | .fault f => exec i { s with kwLatch := b } = .fault f
    | .refused r => exec i { s with kwLatch := b } = .refused r

/-! ### Whole-machine rules -/

/-- 10_state.md sections 2 to 6: an instruction that completes writes only the parts its rules name; every other part of the state is kept. -/
def Obligations.InstructionsWriteOnlyTheirParts : Prop :=
  ∀ (i : Instr) (s t : State), exec i s = .next t → KeptBut i.writes s t

/-- 10_state.md section 2: an instruction that completes writes no register but its destination, the registers `Fx65` loads, and `VF` where
the table of flags gives it an output. -/
def Obligations.InstructionsWriteOnlyTheirRegisters : Prop :=
  ∀ (i : Instr) (s t : State), exec i s = .next t → ∀ r : RegIx, i.writesReg r = false → t.getV r = s.getV r

/-- R20: stale stack entries are not observable: two states that differ only in entries no active frame owns run every instruction to
states that differ only so, or to the same fault. -/
def Obligations.StaleStackEntriesAreUnobservable : Prop :=
  ∀ (i : Instr) (s s' : State), s.sp.toNat ≤ 15 → SameButStaleStack s s' →
    match exec i s with
    | .next t => ∃ t', exec i s' = .next t' ∧ SameButStaleStack t t'
    | .fault f => exec i s' = .fault f
    | .refused r => exec i s' = .refused r

/-- R38, R44: a stored word is fetched: after its two bytes are written at `pc`, the fetch decodes exactly that word. -/
def Obligations.FetchSeesTheStoredWord : Prop :=
  ∀ (s : State) (hi lo : Byte), s.pc.toNat ≤ 0xFFE →
    fetchDecode ((s.writeByte s.pc.toNat hi).writeByte (s.pc.toNat + 1) lo) =
      match decode (BitVec.ofNat 16 (hi.toNat * 256 + lo.toNat)) with
      | .ok i => .ok i
      | .error _ => .error (.unknownOpcode s.pc (BitVec.ofNat 16 (hi.toNat * 256 + lo.toNat)))

/-! ### Host operations -/

/-- R112: `update_timers` takes 1 from each timer that is above 0, and changes nothing else. -/
def Obligations.UpdateTimersCountsDown : Prop :=
  ∀ s : State, s.updateTimers.dt.toNat = s.dt.toNat - 1 ∧ s.updateTimers.st.toNat = s.st.toNat - 1 ∧
    KeptBut [.delay, .sound] s s.updateTimers

/-- R112, R134, §8 of the source (95_test_vectors.md S8): after `n` calls each timer is `n` less, floored at 0, and reading `DT` gives that. -/
def Obligations.TimersAfterManyUpdates : Prop :=
  ∀ (n : Nat) (x : RegIx) (s : State), ∃ t, exec (.ldVxDT x) (State.updateTimers^[n] s) = .next t ∧
    (t.getV x).toNat = s.dt.toNat - n ∧ t.st.toNat = s.st.toNat - n

/-- R115, R116: `key_down` and `key_up` of a key 0 to 15 write that entry of `keys_cur` alone; any other index changes nothing. -/
def Obligations.KeyEventsWriteOneCurrentKey : Prop :=
  ∀ (s : State) (k : Int),
    (∀ j : Fin 16, (s.keyDown k).keysCur[j.val] = if (j.val : Int) = k then true else s.keysCur[j.val]) ∧
    (∀ j : Fin 16, (s.keyUp k).keysCur[j.val] = if (j.val : Int) = k then false else s.keysCur[j.val]) ∧
    { s.keyDown k with keysCur := s.keysCur } = s ∧ { s.keyUp k with keysCur := s.keysCur } = s ∧
    (¬ (0 ≤ k ∧ k ≤ 15) → s.keyDown k = s ∧ s.keyUp k = s)

/-- R114, R117, R118: `should_beep` is `ST > 0`; the snapshot is the display; `has_changed` returns the flag and clears it, so a second call
returns 0, and changes nothing else. -/
def Obligations.HostQueries : Prop :=
  ∀ s : State, (s.shouldBeep = true ↔ 0 < s.st.toNat) ∧ s.snapshot = s.disp ∧
    Op.shouldBeep.apply s s = s ∧ Op.display.apply s s = s ∧
    s.hasChanged.1 = s.changed ∧ s.hasChanged.2.changed = false ∧ s.hasChanged.2.hasChanged.1 = false ∧
    { s.hasChanged.2 with changed := s.changed } = s

/-- R125, R126 (with D19): `load_rom` copies at most `0xE00` bytes to `0x200`, changing nothing else but `rom_image` where it is retained; a longer
ROM faults with its length. -/
def Obligations.LoadRomCopiesOrFaults : Prop :=
  ∀ (s residue : State) (bytes : List Byte),
    (bytes.length ≤ 0xE00 →
      (∀ j : Nat, ∀ h : j < bytes.length, (s.loadRom residue bytes).readByte (0x200 + j) = bytes[j]) ∧
      MemoryKeptOutside 0x200 bytes.length s (s.loadRom residue bytes) ∧
      (s.loadRom residue bytes).romImage = (if s.cfg.resetRetainsRom then some bytes else s.romImage) ∧
      { s.loadRom residue bytes with mem := s.mem, romImage := s.romImage } = s) ∧
    (0xE00 < bytes.length →
      (s.loadRom residue bytes).status = .faulted ⟨.romTooLarge, none, BitVec.ofNat 16 (min bytes.length 0xFFFF)⟩)

/-- R30, R123 (latch and status by D11, D16): what `init` leaves, under every value of the parameters; the fonts' bytes are those of the
parameter. -/
def Obligations.InitValues : Prop :=
  ∀ cfg : Config, let s := State.init cfg
    s.pc = 0x200 ∧ s.i = 0 ∧ s.sp = 0 ∧ s.dt = 0 ∧ s.st = 0 ∧ s.changed = false ∧ s.kwLatch = false ∧ s.status = .running ∧
    s.cfg = cfg ∧ s.romImage = (if cfg.resetRetainsRom then some [] else none) ∧
    (∀ r : RegIx, s.getV r = 0) ∧ (∀ j : Fin 16, s.stack[j.val] = 0) ∧
    (∀ (r : Fin 32) (c : Fin 64), s.disp[r.val][c.val] = false) ∧
    (∀ k : Fin 16, s.keysCur[k.val] = false ∧ s.keysPrev[k.val] = false) ∧
    (∀ a : Fin 80, s.readByte a.val = cfg.font[a.val]) ∧ (∀ a : Nat, 0x50 ≤ a → s.readByte a = 0)

/-- R127, R128: `reset` gives the values of `init` from any state, Faulted included, but that under `RESET_RETAINS_ROM` the kept ROM is back at
`0x200` and still kept. The form of `rom_image` (R29) is a premise. -/
def Obligations.ResetGivesInitValues : Prop :=
  ∀ s : State, s.dataWf = true →
    (∀ bytes, s.romImage = some bytes →
      (∀ j : Nat, ∀ h : j < bytes.length, s.doReset.readByte (0x200 + j) = bytes[j]) ∧
      MemoryKeptOutside 0x200 bytes.length (State.init s.cfg) s.doReset) ∧
    (s.cfg.resetRetainsRom = false → ∀ a, s.doReset.readByte a = (State.init s.cfg).readByte a) ∧
    s.doReset.romImage = s.romImage ∧
    { s.doReset with mem := [], romImage := (State.init s.cfg).romImage, draws := 0 } = State.init s.cfg

/-! ### Invariants -/

/-- The invariant holds after `init`, under every value of the parameters, and so at `State.reset`. -/
def Obligations.InvariantAtReset : Prop := (∀ cfg : Config, Inv (State.init cfg)) ∧ Inv State.reset

/-- R18, R19, R29, R34: every step keeps the invariant: memory canonical and within 4096 bytes, `sp` in 0..15, `pc` at most `0x10FE`, stack entries at
most `0x1000`, `stack[0]` unwritten, and the form of `rom_image`. -/
def Obligations.StepKeepsTheInvariant : Prop := ∀ s t : State, Inv s → step s = .next t → Inv t

/-- R19, R102, R119: under every interleaving of the operations, every reachable state has the invariant and the parameters it began with; what
a fault leaves is arbitrary, but that its memory and `rom_image` have their legal form, the model's choice (log entry 4). So no step of a
reachable state raises `illegalStackPointer`, the model's own stop (log entry 5). -/
def Obligations.EveryReachableStateHasTheInvariant : Prop :=
  ∀ (cfg : Config) (s : State), Reachable cfg s →
    Inv s ∧ s.cfg = cfg ∧ ∀ (o : Word) (p : Byte), step s ≠ .fault (.illegalStackPointer o p)

/-- R29, R34, R119: every operation of the interface, and not the tick alone, keeps the invariant and the parameters, from every state that has
it; a fault may leave any state whose memory and `rom_image` have their legal form, the model's choice (log entry 4). -/
def Obligations.EveryOperationKeepsTheInvariant : Prop :=
  ∀ (o : Op) (residue s : State), Inv s → residue.cfg = s.cfg → residue.dataWf = true →
    Inv (o.apply residue s) ∧ (o.apply residue s).cfg = s.cfg
end

