-- ==== Sys2Proof/Laws/Decode.lean ====
section
/-! SUPPORT. The fields of a word given as a number, and the dispatch of the decoder on one leading nibble at a time. -/

namespace Sys2Proof

/-! ### Fields of a word spelled as a number -/

theorem fieldLead_ofNat {n : Nat} (h : n < 65536) : fieldLead (BitVec.ofNat 16 n) = n / 4096 := by
  simp only [fieldLead, BitVec.toNat_ofNat]; omega

theorem fieldX_ofNat {n : Nat} {x : RegIx} (h : n < 65536) (hx : n / 256 % 16 = x.val) : fieldX (BitVec.ofNat 16 n) = x := by
  apply Fin.ext; simp only [fieldX, Fin.ofNat, BitVec.toNat_ofNat]; omega

theorem fieldY_ofNat {n : Nat} {y : RegIx} (h : n < 65536) (hy : n / 16 % 16 = y.val) : fieldY (BitVec.ofNat 16 n) = y := by
  apply Fin.ext; simp only [fieldY, Fin.ofNat, BitVec.toNat_ofNat]; omega

theorem fieldN_ofNat (n : Nat) : fieldN (BitVec.ofNat 16 n) = n % 16 := by
  simp only [fieldN, BitVec.toNat_ofNat]; omega

theorem fieldKK_ofNat {n : Nat} {kk : Byte} (h : n % 256 = kk.toNat) : fieldKK (BitVec.ofNat 16 n) = kk := by
  apply BitVec.eq_of_toNat_eq; simp only [fieldKK, BitVec.toNat_ofNat]; omega

theorem toNat_fieldKK_ofNat (n : Nat) : (fieldKK (BitVec.ofNat 16 n)).toNat = n % 256 := by
  simp only [fieldKK, BitVec.toNat_ofNat]; omega

theorem fieldNNN_ofNat {n : Nat} {nnn : Addr} (h : n % 4096 = nnn.toNat) : fieldNNN (BitVec.ofNat 16 n) = nnn := by
  apply BitVec.eq_of_toNat_eq; simp only [fieldNNN, BitVec.toNat_ofNat]; omega

/-! ### One leading nibble at a time -/

theorem decodePattern_lead {op : Word} {d : Nat} (h : fieldLead op = d) : decodePattern op = decodeLead d op := by
  subst h; rfl

theorem decode_of_pattern {op : Word} {i : Instr} (h : decodePattern op = some i) : decode op = .ok i := by
  simp only [decode, h]

/-- A word decodes exactly when its pattern is found, and is otherwise reported raw (R53). -/
theorem decode_ok_iff (op : Word) (i : Instr) : decode op = .ok i ↔ decodePattern op = some i := by
  unfold decode; cases decodePattern op <;> simp

theorem decode_error_iff (op : Word) (r : Reject) : decode op = .error r ↔ decodePattern op = none ∧ r = .unknownOpcode op := by
  unfold decode; cases decodePattern op <;> simp [eq_comm]

/-! ### Words and bytes -/

/-- The two bytes of a word give the word back (R38). -/
theorem wordOfBytes_bytesOfWord (op : Word) :
    wordOfBytes (BitVec.ofNat 8 (op.toNat / 256)) (BitVec.ofNat 8 op.toNat) = op := by
  have := op.isLt
  apply BitVec.eq_of_toNat_eq
  simp only [wordOfBytes, BitVec.toNat_ofNat]; omega

/-- Decoding the bytes of a word decodes the word, and leaves the bytes after it. -/
theorem decodeBytes_bytesOfWord (op : Word) (rest : List Byte) :
    decodeBytes (bytesOfWord op ++ rest) = (decode op).map (·, rest) := by
  simp only [bytesOfWord, decodeBytes, List.cons_append, List.nil_append, wordOfBytes_bytesOfWord]
  cases decode op <;> rfl

/-- The host's table words go through the same decoder. -/
theorem decodeTableWord_eq (w : Nat) (i : Instr) :
    decodeTableWord 16 w = some i ↔ decode (BitVec.ofNat 16 w) = .ok i := by
  have h := decodeBytes_bytesOfWord (BitVec.ofNat 16 (w % 2 ^ 16)) []
  rw [List.append_nil] at h
  have e : BitVec.ofNat 16 (w % 2 ^ 16) = BitVec.ofNat 16 w := by
    apply BitVec.eq_of_toNat_eq; simp only [BitVec.toNat_ofNat]; omega
  rw [e] at h
  simp only [decodeTableWord, e, h]
  cases decode (BitVec.ofNat 16 w) <;> simp [Except.map]

end Sys2Proof
end

