-- ==== Sys2Proof/Laws/State.lean ====
section
/-! SUPPORT. What each field of State is after each named update: one lemma per field and update, so that no proof unfolds a record update. -/

namespace Sys2Proof.Machine

variable (s : State)

@[simp] theorem State.setV_mem (r : RegIx) (b : Byte) : (s.setV r b).mem = s.mem := rfl
@[simp] theorem State.setV_v (r : RegIx) (b : Byte) : (s.setV r b).v = s.v.set r.val b := rfl
@[simp] theorem State.setV_i (r : RegIx) (b : Byte) : (s.setV r b).i = s.i := rfl
@[simp] theorem State.setV_pc (r : RegIx) (b : Byte) : (s.setV r b).pc = s.pc := rfl
@[simp] theorem State.setV_sp (r : RegIx) (b : Byte) : (s.setV r b).sp = s.sp := rfl
@[simp] theorem State.setV_stack (r : RegIx) (b : Byte) : (s.setV r b).stack = s.stack := rfl
@[simp] theorem State.setV_dt (r : RegIx) (b : Byte) : (s.setV r b).dt = s.dt := rfl
@[simp] theorem State.setV_st (r : RegIx) (b : Byte) : (s.setV r b).st = s.st := rfl
@[simp] theorem State.setV_disp (r : RegIx) (b : Byte) : (s.setV r b).disp = s.disp := rfl
@[simp] theorem State.setV_changed (r : RegIx) (b : Byte) : (s.setV r b).changed = s.changed := rfl
@[simp] theorem State.setV_keysCur (r : RegIx) (b : Byte) : (s.setV r b).keysCur = s.keysCur := rfl
@[simp] theorem State.setV_keysPrev (r : RegIx) (b : Byte) : (s.setV r b).keysPrev = s.keysPrev := rfl
@[simp] theorem State.setV_kwLatch (r : RegIx) (b : Byte) : (s.setV r b).kwLatch = s.kwLatch := rfl
@[simp] theorem State.setV_status (r : RegIx) (b : Byte) : (s.setV r b).status = s.status := rfl
@[simp] theorem State.setV_romImage (r : RegIx) (b : Byte) : (s.setV r b).romImage = s.romImage := rfl
@[simp] theorem State.setV_cfg (r : RegIx) (b : Byte) : (s.setV r b).cfg = s.cfg := rfl
@[simp] theorem State.setV_draws (r : RegIx) (b : Byte) : (s.setV r b).draws = s.draws := rfl

@[simp] theorem State.setFlagged_mem (x : RegIx) (b f : Byte) : (s.setFlagged x b f).mem = s.mem := rfl
@[simp] theorem State.setFlagged_i (x : RegIx) (b f : Byte) : (s.setFlagged x b f).i = s.i := rfl
@[simp] theorem State.setFlagged_pc (x : RegIx) (b f : Byte) : (s.setFlagged x b f).pc = s.pc := rfl
@[simp] theorem State.setFlagged_sp (x : RegIx) (b f : Byte) : (s.setFlagged x b f).sp = s.sp := rfl
@[simp] theorem State.setFlagged_stack (x : RegIx) (b f : Byte) : (s.setFlagged x b f).stack = s.stack := rfl
@[simp] theorem State.setFlagged_dt (x : RegIx) (b f : Byte) : (s.setFlagged x b f).dt = s.dt := rfl
@[simp] theorem State.setFlagged_st (x : RegIx) (b f : Byte) : (s.setFlagged x b f).st = s.st := rfl
@[simp] theorem State.setFlagged_disp (x : RegIx) (b f : Byte) : (s.setFlagged x b f).disp = s.disp := rfl
@[simp] theorem State.setFlagged_changed (x : RegIx) (b f : Byte) : (s.setFlagged x b f).changed = s.changed := rfl
@[simp] theorem State.setFlagged_keysCur (x : RegIx) (b f : Byte) : (s.setFlagged x b f).keysCur = s.keysCur := rfl
@[simp] theorem State.setFlagged_keysPrev (x : RegIx) (b f : Byte) : (s.setFlagged x b f).keysPrev = s.keysPrev := rfl
@[simp] theorem State.setFlagged_kwLatch (x : RegIx) (b f : Byte) : (s.setFlagged x b f).kwLatch = s.kwLatch := rfl
@[simp] theorem State.setFlagged_status (x : RegIx) (b f : Byte) : (s.setFlagged x b f).status = s.status := rfl
@[simp] theorem State.setFlagged_romImage (x : RegIx) (b f : Byte) : (s.setFlagged x b f).romImage = s.romImage := rfl
@[simp] theorem State.setFlagged_cfg (x : RegIx) (b f : Byte) : (s.setFlagged x b f).cfg = s.cfg := rfl
@[simp] theorem State.setFlagged_draws (x : RegIx) (b f : Byte) : (s.setFlagged x b f).draws = s.draws := rfl

@[simp] theorem State.setI_mem (w : Word) : (s.setI w).mem = s.mem := rfl
@[simp] theorem State.setI_v (w : Word) : (s.setI w).v = s.v := rfl
@[simp] theorem State.setI_i (w : Word) : (s.setI w).i = w := rfl
@[simp] theorem State.setI_pc (w : Word) : (s.setI w).pc = s.pc := rfl
@[simp] theorem State.setI_sp (w : Word) : (s.setI w).sp = s.sp := rfl
@[simp] theorem State.setI_stack (w : Word) : (s.setI w).stack = s.stack := rfl
@[simp] theorem State.setI_dt (w : Word) : (s.setI w).dt = s.dt := rfl
@[simp] theorem State.setI_st (w : Word) : (s.setI w).st = s.st := rfl
@[simp] theorem State.setI_disp (w : Word) : (s.setI w).disp = s.disp := rfl
@[simp] theorem State.setI_changed (w : Word) : (s.setI w).changed = s.changed := rfl
@[simp] theorem State.setI_keysCur (w : Word) : (s.setI w).keysCur = s.keysCur := rfl
@[simp] theorem State.setI_keysPrev (w : Word) : (s.setI w).keysPrev = s.keysPrev := rfl
@[simp] theorem State.setI_kwLatch (w : Word) : (s.setI w).kwLatch = s.kwLatch := rfl
@[simp] theorem State.setI_status (w : Word) : (s.setI w).status = s.status := rfl
@[simp] theorem State.setI_romImage (w : Word) : (s.setI w).romImage = s.romImage := rfl
@[simp] theorem State.setI_cfg (w : Word) : (s.setI w).cfg = s.cfg := rfl
@[simp] theorem State.setI_draws (w : Word) : (s.setI w).draws = s.draws := rfl

@[simp] theorem State.setPc_mem (w : Word) : (s.setPc w).mem = s.mem := rfl
@[simp] theorem State.setPc_v (w : Word) : (s.setPc w).v = s.v := rfl
@[simp] theorem State.setPc_i (w : Word) : (s.setPc w).i = s.i := rfl
@[simp] theorem State.setPc_pc (w : Word) : (s.setPc w).pc = w := rfl
@[simp] theorem State.setPc_sp (w : Word) : (s.setPc w).sp = s.sp := rfl
@[simp] theorem State.setPc_stack (w : Word) : (s.setPc w).stack = s.stack := rfl
@[simp] theorem State.setPc_dt (w : Word) : (s.setPc w).dt = s.dt := rfl
@[simp] theorem State.setPc_st (w : Word) : (s.setPc w).st = s.st := rfl
@[simp] theorem State.setPc_disp (w : Word) : (s.setPc w).disp = s.disp := rfl
@[simp] theorem State.setPc_changed (w : Word) : (s.setPc w).changed = s.changed := rfl
@[simp] theorem State.setPc_keysCur (w : Word) : (s.setPc w).keysCur = s.keysCur := rfl
@[simp] theorem State.setPc_keysPrev (w : Word) : (s.setPc w).keysPrev = s.keysPrev := rfl
@[simp] theorem State.setPc_kwLatch (w : Word) : (s.setPc w).kwLatch = s.kwLatch := rfl
@[simp] theorem State.setPc_status (w : Word) : (s.setPc w).status = s.status := rfl
@[simp] theorem State.setPc_romImage (w : Word) : (s.setPc w).romImage = s.romImage := rfl
@[simp] theorem State.setPc_cfg (w : Word) : (s.setPc w).cfg = s.cfg := rfl
@[simp] theorem State.setPc_draws (w : Word) : (s.setPc w).draws = s.draws := rfl

@[simp] theorem State.skipIf_mem (c : Bool) : (s.skipIf c).mem = s.mem := rfl
@[simp] theorem State.skipIf_v (c : Bool) : (s.skipIf c).v = s.v := rfl
@[simp] theorem State.skipIf_i (c : Bool) : (s.skipIf c).i = s.i := rfl
@[simp] theorem State.skipIf_pc (c : Bool) : (s.skipIf c).pc = if c then s.pc + 2 else s.pc := rfl
@[simp] theorem State.skipIf_sp (c : Bool) : (s.skipIf c).sp = s.sp := rfl
@[simp] theorem State.skipIf_stack (c : Bool) : (s.skipIf c).stack = s.stack := rfl
@[simp] theorem State.skipIf_dt (c : Bool) : (s.skipIf c).dt = s.dt := rfl
@[simp] theorem State.skipIf_st (c : Bool) : (s.skipIf c).st = s.st := rfl
@[simp] theorem State.skipIf_disp (c : Bool) : (s.skipIf c).disp = s.disp := rfl
@[simp] theorem State.skipIf_changed (c : Bool) : (s.skipIf c).changed = s.changed := rfl
@[simp] theorem State.skipIf_keysCur (c : Bool) : (s.skipIf c).keysCur = s.keysCur := rfl
@[simp] theorem State.skipIf_keysPrev (c : Bool) : (s.skipIf c).keysPrev = s.keysPrev := rfl
@[simp] theorem State.skipIf_kwLatch (c : Bool) : (s.skipIf c).kwLatch = s.kwLatch := rfl
@[simp] theorem State.skipIf_status (c : Bool) : (s.skipIf c).status = s.status := rfl
@[simp] theorem State.skipIf_romImage (c : Bool) : (s.skipIf c).romImage = s.romImage := rfl
@[simp] theorem State.skipIf_cfg (c : Bool) : (s.skipIf c).cfg = s.cfg := rfl
@[simp] theorem State.skipIf_draws (c : Bool) : (s.skipIf c).draws = s.draws := rfl

@[simp] theorem State.rewind_mem : s.rewind.mem = s.mem := rfl
@[simp] theorem State.rewind_v : s.rewind.v = s.v := rfl
@[simp] theorem State.rewind_i : s.rewind.i = s.i := rfl
@[simp] theorem State.rewind_pc : s.rewind.pc = s.pc - 2 := rfl
@[simp] theorem State.rewind_sp : s.rewind.sp = s.sp := rfl
@[simp] theorem State.rewind_stack : s.rewind.stack = s.stack := rfl
@[simp] theorem State.rewind_dt : s.rewind.dt = s.dt := rfl
@[simp] theorem State.rewind_st : s.rewind.st = s.st := rfl
@[simp] theorem State.rewind_disp : s.rewind.disp = s.disp := rfl
@[simp] theorem State.rewind_changed : s.rewind.changed = s.changed := rfl
@[simp] theorem State.rewind_keysCur : s.rewind.keysCur = s.keysCur := rfl
@[simp] theorem State.rewind_keysPrev : s.rewind.keysPrev = s.keysPrev := rfl
@[simp] theorem State.rewind_kwLatch : s.rewind.kwLatch = s.kwLatch := rfl
@[simp] theorem State.rewind_status : s.rewind.status = s.status := rfl
@[simp] theorem State.rewind_romImage : s.rewind.romImage = s.romImage := rfl
@[simp] theorem State.rewind_cfg : s.rewind.cfg = s.cfg := rfl
@[simp] theorem State.rewind_draws : s.rewind.draws = s.draws := rfl

@[simp] theorem State.advance_mem : s.advance.mem = s.mem := rfl
@[simp] theorem State.advance_v : s.advance.v = s.v := rfl
@[simp] theorem State.advance_i : s.advance.i = s.i := rfl
@[simp] theorem State.advance_pc : s.advance.pc = s.pc + 2 := rfl
@[simp] theorem State.advance_sp : s.advance.sp = s.sp := rfl
@[simp] theorem State.advance_stack : s.advance.stack = s.stack := rfl
@[simp] theorem State.advance_dt : s.advance.dt = s.dt := rfl
@[simp] theorem State.advance_st : s.advance.st = s.st := rfl
@[simp] theorem State.advance_disp : s.advance.disp = s.disp := rfl
@[simp] theorem State.advance_changed : s.advance.changed = s.changed := rfl
@[simp] theorem State.advance_keysCur : s.advance.keysCur = s.keysCur := rfl
@[simp] theorem State.advance_keysPrev : s.advance.keysPrev = s.keysPrev := rfl
@[simp] theorem State.advance_kwLatch : s.advance.kwLatch = s.kwLatch := rfl
@[simp] theorem State.advance_status : s.advance.status = s.status := rfl
@[simp] theorem State.advance_romImage : s.advance.romImage = s.romImage := rfl
@[simp] theorem State.advance_cfg : s.advance.cfg = s.cfg := rfl
@[simp] theorem State.advance_draws : s.advance.draws = s.draws := rfl

@[simp] theorem State.writeByte_mem (a : Nat) (b : Byte) : (s.writeByte a b).mem = Memory.write s.cfg.font s.mem a b := rfl
@[simp] theorem State.writeByte_v (a : Nat) (b : Byte) : (s.writeByte a b).v = s.v := rfl
@[simp] theorem State.writeByte_i (a : Nat) (b : Byte) : (s.writeByte a b).i = s.i := rfl
@[simp] theorem State.writeByte_pc (a : Nat) (b : Byte) : (s.writeByte a b).pc = s.pc := rfl
@[simp] theorem State.writeByte_sp (a : Nat) (b : Byte) : (s.writeByte a b).sp = s.sp := rfl
@[simp] theorem State.writeByte_stack (a : Nat) (b : Byte) : (s.writeByte a b).stack = s.stack := rfl
@[simp] theorem State.writeByte_dt (a : Nat) (b : Byte) : (s.writeByte a b).dt = s.dt := rfl
@[simp] theorem State.writeByte_st (a : Nat) (b : Byte) : (s.writeByte a b).st = s.st := rfl
@[simp] theorem State.writeByte_disp (a : Nat) (b : Byte) : (s.writeByte a b).disp = s.disp := rfl
@[simp] theorem State.writeByte_changed (a : Nat) (b : Byte) : (s.writeByte a b).changed = s.changed := rfl
@[simp] theorem State.writeByte_keysCur (a : Nat) (b : Byte) : (s.writeByte a b).keysCur = s.keysCur := rfl
@[simp] theorem State.writeByte_keysPrev (a : Nat) (b : Byte) : (s.writeByte a b).keysPrev = s.keysPrev := rfl
@[simp] theorem State.writeByte_kwLatch (a : Nat) (b : Byte) : (s.writeByte a b).kwLatch = s.kwLatch := rfl
@[simp] theorem State.writeByte_status (a : Nat) (b : Byte) : (s.writeByte a b).status = s.status := rfl
@[simp] theorem State.writeByte_romImage (a : Nat) (b : Byte) : (s.writeByte a b).romImage = s.romImage := rfl
@[simp] theorem State.writeByte_cfg (a : Nat) (b : Byte) : (s.writeByte a b).cfg = s.cfg := rfl
@[simp] theorem State.writeByte_draws (a : Nat) (b : Byte) : (s.writeByte a b).draws = s.draws := rfl

@[simp] theorem State.loadLowRegs_mem (x : RegIx) (a : Nat) : (s.loadLowRegs x a).mem = s.mem := rfl
@[simp] theorem State.loadLowRegs_i (x : RegIx) (a : Nat) : (s.loadLowRegs x a).i = s.i := rfl
@[simp] theorem State.loadLowRegs_pc (x : RegIx) (a : Nat) : (s.loadLowRegs x a).pc = s.pc := rfl
@[simp] theorem State.loadLowRegs_sp (x : RegIx) (a : Nat) : (s.loadLowRegs x a).sp = s.sp := rfl
@[simp] theorem State.loadLowRegs_stack (x : RegIx) (a : Nat) : (s.loadLowRegs x a).stack = s.stack := rfl
@[simp] theorem State.loadLowRegs_dt (x : RegIx) (a : Nat) : (s.loadLowRegs x a).dt = s.dt := rfl
@[simp] theorem State.loadLowRegs_st (x : RegIx) (a : Nat) : (s.loadLowRegs x a).st = s.st := rfl
@[simp] theorem State.loadLowRegs_disp (x : RegIx) (a : Nat) : (s.loadLowRegs x a).disp = s.disp := rfl
@[simp] theorem State.loadLowRegs_changed (x : RegIx) (a : Nat) : (s.loadLowRegs x a).changed = s.changed := rfl
@[simp] theorem State.loadLowRegs_keysCur (x : RegIx) (a : Nat) : (s.loadLowRegs x a).keysCur = s.keysCur := rfl
@[simp] theorem State.loadLowRegs_keysPrev (x : RegIx) (a : Nat) : (s.loadLowRegs x a).keysPrev = s.keysPrev := rfl
@[simp] theorem State.loadLowRegs_kwLatch (x : RegIx) (a : Nat) : (s.loadLowRegs x a).kwLatch = s.kwLatch := rfl
@[simp] theorem State.loadLowRegs_status (x : RegIx) (a : Nat) : (s.loadLowRegs x a).status = s.status := rfl
@[simp] theorem State.loadLowRegs_romImage (x : RegIx) (a : Nat) : (s.loadLowRegs x a).romImage = s.romImage := rfl
@[simp] theorem State.loadLowRegs_cfg (x : RegIx) (a : Nat) : (s.loadLowRegs x a).cfg = s.cfg := rfl
@[simp] theorem State.loadLowRegs_draws (x : RegIx) (a : Nat) : (s.loadLowRegs x a).draws = s.draws := rfl

@[simp] theorem State.setDT_mem (b : Byte) : (s.setDT b).mem = s.mem := rfl
@[simp] theorem State.setDT_v (b : Byte) : (s.setDT b).v = s.v := rfl
@[simp] theorem State.setDT_i (b : Byte) : (s.setDT b).i = s.i := rfl
@[simp] theorem State.setDT_pc (b : Byte) : (s.setDT b).pc = s.pc := rfl
@[simp] theorem State.setDT_sp (b : Byte) : (s.setDT b).sp = s.sp := rfl
@[simp] theorem State.setDT_stack (b : Byte) : (s.setDT b).stack = s.stack := rfl
@[simp] theorem State.setDT_dt (b : Byte) : (s.setDT b).dt = b := rfl
@[simp] theorem State.setDT_st (b : Byte) : (s.setDT b).st = s.st := rfl
@[simp] theorem State.setDT_disp (b : Byte) : (s.setDT b).disp = s.disp := rfl
@[simp] theorem State.setDT_changed (b : Byte) : (s.setDT b).changed = s.changed := rfl
@[simp] theorem State.setDT_keysCur (b : Byte) : (s.setDT b).keysCur = s.keysCur := rfl
@[simp] theorem State.setDT_keysPrev (b : Byte) : (s.setDT b).keysPrev = s.keysPrev := rfl
@[simp] theorem State.setDT_kwLatch (b : Byte) : (s.setDT b).kwLatch = s.kwLatch := rfl
@[simp] theorem State.setDT_status (b : Byte) : (s.setDT b).status = s.status := rfl
@[simp] theorem State.setDT_romImage (b : Byte) : (s.setDT b).romImage = s.romImage := rfl
@[simp] theorem State.setDT_cfg (b : Byte) : (s.setDT b).cfg = s.cfg := rfl
@[simp] theorem State.setDT_draws (b : Byte) : (s.setDT b).draws = s.draws := rfl

@[simp] theorem State.setST_mem (b : Byte) : (s.setST b).mem = s.mem := rfl
@[simp] theorem State.setST_v (b : Byte) : (s.setST b).v = s.v := rfl
@[simp] theorem State.setST_i (b : Byte) : (s.setST b).i = s.i := rfl
@[simp] theorem State.setST_pc (b : Byte) : (s.setST b).pc = s.pc := rfl
@[simp] theorem State.setST_sp (b : Byte) : (s.setST b).sp = s.sp := rfl
@[simp] theorem State.setST_stack (b : Byte) : (s.setST b).stack = s.stack := rfl
@[simp] theorem State.setST_dt (b : Byte) : (s.setST b).dt = s.dt := rfl
@[simp] theorem State.setST_st (b : Byte) : (s.setST b).st = b := rfl
@[simp] theorem State.setST_disp (b : Byte) : (s.setST b).disp = s.disp := rfl
@[simp] theorem State.setST_changed (b : Byte) : (s.setST b).changed = s.changed := rfl
@[simp] theorem State.setST_keysCur (b : Byte) : (s.setST b).keysCur = s.keysCur := rfl
@[simp] theorem State.setST_keysPrev (b : Byte) : (s.setST b).keysPrev = s.keysPrev := rfl
@[simp] theorem State.setST_kwLatch (b : Byte) : (s.setST b).kwLatch = s.kwLatch := rfl
@[simp] theorem State.setST_status (b : Byte) : (s.setST b).status = s.status := rfl
@[simp] theorem State.setST_romImage (b : Byte) : (s.setST b).romImage = s.romImage := rfl
@[simp] theorem State.setST_cfg (b : Byte) : (s.setST b).cfg = s.cfg := rfl
@[simp] theorem State.setST_draws (b : Byte) : (s.setST b).draws = s.draws := rfl

@[simp] theorem State.draw_mem : s.draw.2.mem = s.mem := rfl
@[simp] theorem State.draw_v : s.draw.2.v = s.v := rfl
@[simp] theorem State.draw_i : s.draw.2.i = s.i := rfl
@[simp] theorem State.draw_pc : s.draw.2.pc = s.pc := rfl
@[simp] theorem State.draw_sp : s.draw.2.sp = s.sp := rfl
@[simp] theorem State.draw_stack : s.draw.2.stack = s.stack := rfl
@[simp] theorem State.draw_dt : s.draw.2.dt = s.dt := rfl
@[simp] theorem State.draw_st : s.draw.2.st = s.st := rfl
@[simp] theorem State.draw_disp : s.draw.2.disp = s.disp := rfl
@[simp] theorem State.draw_changed : s.draw.2.changed = s.changed := rfl
@[simp] theorem State.draw_keysCur : s.draw.2.keysCur = s.keysCur := rfl
@[simp] theorem State.draw_keysPrev : s.draw.2.keysPrev = s.keysPrev := rfl
@[simp] theorem State.draw_kwLatch : s.draw.2.kwLatch = s.kwLatch := rfl
@[simp] theorem State.draw_status : s.draw.2.status = s.status := rfl
@[simp] theorem State.draw_romImage : s.draw.2.romImage = s.romImage := rfl
@[simp] theorem State.draw_cfg : s.draw.2.cfg = s.cfg := rfl
@[simp] theorem State.draw_draws : s.draw.2.draws = s.draws + 1 := rfl

@[simp] theorem State.setDisplay_mem (g : Grid) (c : Bool) : (s.setDisplay g c).mem = s.mem := rfl
@[simp] theorem State.setDisplay_v (g : Grid) (c : Bool) : (s.setDisplay g c).v = s.v := rfl
@[simp] theorem State.setDisplay_i (g : Grid) (c : Bool) : (s.setDisplay g c).i = s.i := rfl
@[simp] theorem State.setDisplay_pc (g : Grid) (c : Bool) : (s.setDisplay g c).pc = s.pc := rfl
@[simp] theorem State.setDisplay_sp (g : Grid) (c : Bool) : (s.setDisplay g c).sp = s.sp := rfl
@[simp] theorem State.setDisplay_stack (g : Grid) (c : Bool) : (s.setDisplay g c).stack = s.stack := rfl
@[simp] theorem State.setDisplay_dt (g : Grid) (c : Bool) : (s.setDisplay g c).dt = s.dt := rfl
@[simp] theorem State.setDisplay_st (g : Grid) (c : Bool) : (s.setDisplay g c).st = s.st := rfl
@[simp] theorem State.setDisplay_disp (g : Grid) (c : Bool) : (s.setDisplay g c).disp = g := rfl
@[simp] theorem State.setDisplay_changed (g : Grid) (c : Bool) : (s.setDisplay g c).changed = c := rfl
@[simp] theorem State.setDisplay_keysCur (g : Grid) (c : Bool) : (s.setDisplay g c).keysCur = s.keysCur := rfl
@[simp] theorem State.setDisplay_keysPrev (g : Grid) (c : Bool) : (s.setDisplay g c).keysPrev = s.keysPrev := rfl
@[simp] theorem State.setDisplay_kwLatch (g : Grid) (c : Bool) : (s.setDisplay g c).kwLatch = s.kwLatch := rfl
@[simp] theorem State.setDisplay_status (g : Grid) (c : Bool) : (s.setDisplay g c).status = s.status := rfl
@[simp] theorem State.setDisplay_romImage (g : Grid) (c : Bool) : (s.setDisplay g c).romImage = s.romImage := rfl
@[simp] theorem State.setDisplay_cfg (g : Grid) (c : Bool) : (s.setDisplay g c).cfg = s.cfg := rfl
@[simp] theorem State.setDisplay_draws (g : Grid) (c : Bool) : (s.setDisplay g c).draws = s.draws := rfl

@[simp] theorem State.setLatch_mem (b : Bool) : (s.setLatch b).mem = s.mem := rfl
@[simp] theorem State.setLatch_v (b : Bool) : (s.setLatch b).v = s.v := rfl
@[simp] theorem State.setLatch_i (b : Bool) : (s.setLatch b).i = s.i := rfl
@[simp] theorem State.setLatch_pc (b : Bool) : (s.setLatch b).pc = s.pc := rfl
@[simp] theorem State.setLatch_sp (b : Bool) : (s.setLatch b).sp = s.sp := rfl
@[simp] theorem State.setLatch_stack (b : Bool) : (s.setLatch b).stack = s.stack := rfl
@[simp] theorem State.setLatch_dt (b : Bool) : (s.setLatch b).dt = s.dt := rfl
@[simp] theorem State.setLatch_st (b : Bool) : (s.setLatch b).st = s.st := rfl
@[simp] theorem State.setLatch_disp (b : Bool) : (s.setLatch b).disp = s.disp := rfl
@[simp] theorem State.setLatch_changed (b : Bool) : (s.setLatch b).changed = s.changed := rfl
@[simp] theorem State.setLatch_keysCur (b : Bool) : (s.setLatch b).keysCur = s.keysCur := rfl
@[simp] theorem State.setLatch_keysPrev (b : Bool) : (s.setLatch b).keysPrev = s.keysPrev := rfl
@[simp] theorem State.setLatch_kwLatch (b : Bool) : (s.setLatch b).kwLatch = b := rfl
@[simp] theorem State.setLatch_status (b : Bool) : (s.setLatch b).status = s.status := rfl
@[simp] theorem State.setLatch_romImage (b : Bool) : (s.setLatch b).romImage = s.romImage := rfl
@[simp] theorem State.setLatch_cfg (b : Bool) : (s.setLatch b).cfg = s.cfg := rfl
@[simp] theorem State.setLatch_draws (b : Bool) : (s.setLatch b).draws = s.draws := rfl

@[simp] theorem State.snapshotKeys_mem : s.snapshotKeys.mem = s.mem := rfl
@[simp] theorem State.snapshotKeys_v : s.snapshotKeys.v = s.v := rfl
@[simp] theorem State.snapshotKeys_i : s.snapshotKeys.i = s.i := rfl
@[simp] theorem State.snapshotKeys_pc : s.snapshotKeys.pc = s.pc := rfl
@[simp] theorem State.snapshotKeys_sp : s.snapshotKeys.sp = s.sp := rfl
@[simp] theorem State.snapshotKeys_stack : s.snapshotKeys.stack = s.stack := rfl
@[simp] theorem State.snapshotKeys_dt : s.snapshotKeys.dt = s.dt := rfl
@[simp] theorem State.snapshotKeys_st : s.snapshotKeys.st = s.st := rfl
@[simp] theorem State.snapshotKeys_disp : s.snapshotKeys.disp = s.disp := rfl
@[simp] theorem State.snapshotKeys_changed : s.snapshotKeys.changed = s.changed := rfl
@[simp] theorem State.snapshotKeys_keysCur : s.snapshotKeys.keysCur = s.keysCur := rfl
@[simp] theorem State.snapshotKeys_keysPrev : s.snapshotKeys.keysPrev = s.keysCur := rfl
@[simp] theorem State.snapshotKeys_kwLatch : s.snapshotKeys.kwLatch = s.kwLatch := rfl
@[simp] theorem State.snapshotKeys_status : s.snapshotKeys.status = s.status := rfl
@[simp] theorem State.snapshotKeys_romImage : s.snapshotKeys.romImage = s.romImage := rfl
@[simp] theorem State.snapshotKeys_cfg : s.snapshotKeys.cfg = s.cfg := rfl
@[simp] theorem State.snapshotKeys_draws : s.snapshotKeys.draws = s.draws := rfl

end Sys2Proof.Machine
end

