-- ==== Sys2Proof/Laws/Memory.lean ====
section
/-! SUPPORT. Memory: read after write, and the canonical form is kept by every operation. -/

namespace Sys2Proof.Machine

/-! ### Read after write -/

theorem Memory.lookup_insert (m : Memory) (a c : Nat) (b : Byte) :
    Memory.lookup (Memory.insert m a b) c = if c = a then some b else Memory.lookup m c := by
  induction m with
  | nil => simp [insert, lookup, eq_comm]
  | cons h m ih =>
    obtain ⟨k, d⟩ := h
    simp only [insert]
    split
    · simp only [lookup, ih]
      grind
    · split <;> simp only [lookup] <;> grind

theorem Memory.lookup_erase (m : Memory) (a c : Nat) :
    Memory.lookup (Memory.erase m a) c = if c = a then none else Memory.lookup m c := by
  induction m with
  | nil => simp [erase, lookup]
  | cons h m ih =>
    obtain ⟨k, d⟩ := h
    simp only [erase]
    split <;> simp only [lookup, ih] <;> grind

/-- A read after a write gives the byte written at its address, and what was there anywhere else. -/
theorem Memory.read_write (font : Font) (m : Memory) (a c : Nat) (b : Byte) :
    Memory.read font (Memory.write font m a b) c = if c = a then b else Memory.read font m c := by
  unfold write read
  split
  · rw [lookup_erase]; split <;> simp_all
  · rw [lookup_insert]; split <;> simp_all

/-! ### The canonical form -/

/-- What `wf` says of a single cell. -/
def Memory.cellOk (font : Font) (c : Host.Cell) : Prop := c.1 < 4096 ∧ c.2 ≠ unlisted font c.1

theorem Memory.wf_iff (font : Font) (m : Memory) :
    Memory.wf font m = true ↔ Memory.risingFrom 0 m = true ∧ ∀ c ∈ m, Memory.cellOk font c := by
  simp [wf, cellOk]

theorem Memory.risingFrom_mono {m : Memory} {lo lo' : Nat} (h : lo' ≤ lo) (hm : Memory.risingFrom lo m = true) :
    Memory.risingFrom lo' m = true := by
  cases m with
  | nil => rfl
  | cons c m => obtain ⟨k, b⟩ := c; simp only [risingFrom, Bool.and_eq_true, decide_eq_true_eq] at *; exact ⟨by omega, hm.2⟩

theorem Memory.risingFrom_insert {m : Memory} {lo a : Nat} {b : Byte} (ha : lo ≤ a) (hm : Memory.risingFrom lo m = true) :
    Memory.risingFrom lo (Memory.insert m a b) = true := by
  induction m generalizing lo with
  | nil => simp [insert, risingFrom, ha]
  | cons c m ih =>
    obtain ⟨k, d⟩ := c
    simp only [risingFrom, Bool.and_eq_true, decide_eq_true_eq] at hm
    simp only [insert]
    split
    · simp only [risingFrom, Bool.and_eq_true, decide_eq_true_eq]; exact ⟨hm.1, ih (by omega) hm.2⟩
    · split
      · subst k; simp only [risingFrom, Bool.and_eq_true, decide_eq_true_eq]; exact hm
      · simp only [risingFrom, Bool.and_eq_true, decide_eq_true_eq]; exact ⟨ha, by omega, hm.2⟩

theorem Memory.risingFrom_erase {m : Memory} {lo a : Nat} (hm : Memory.risingFrom lo m = true) :
    Memory.risingFrom lo (Memory.erase m a) = true := by
  induction m generalizing lo with
  | nil => rfl
  | cons c m ih =>
    obtain ⟨k, d⟩ := c
    simp only [risingFrom, Bool.and_eq_true, decide_eq_true_eq] at hm
    simp only [erase]
    split
    · exact risingFrom_mono (by omega) (ih hm.2)
    · simp only [risingFrom, Bool.and_eq_true, decide_eq_true_eq]; exact ⟨hm.1, ih hm.2⟩

theorem Memory.mem_insert {m : Memory} {a : Nat} {b : Byte} {c : Host.Cell} (h : c ∈ Memory.insert m a b) :
    c = (a, b) ∨ c ∈ m := by
  induction m with
  | nil => simpa [insert] using h
  | cons d m ih =>
    obtain ⟨k, e⟩ := d
    simp only [insert] at h
    split at h
    · rcases List.mem_cons.1 h with h | h
      · exact .inr (by simp [h])
      · rcases ih h with h | h
        · exact .inl h
        · exact .inr (by simp [h])
    · split at h <;> simp only [List.mem_cons] at * <;> tauto

theorem Memory.mem_erase {m : Memory} {a : Nat} {c : Host.Cell} (h : c ∈ Memory.erase m a) : c ∈ m := by
  induction m with
  | nil => exact h
  | cons d m ih =>
    obtain ⟨k, e⟩ := d
    simp only [erase] at h
    split at h
    · exact List.mem_cons_of_mem _ (ih h)
    · rcases List.mem_cons.1 h with h | h
      · simp [h]
      · exact List.mem_cons_of_mem _ (ih h)

/-- A write inside the 4096 bytes keeps the canonical form. -/
theorem Memory.wf_write {font : Font} {m : Memory} {a : Nat} {b : Byte} (ha : a < 4096) (hm : Memory.wf font m = true) :
    Memory.wf font (Memory.write font m a b) = true := by
  rw [wf_iff] at *
  unfold write
  split
  · exact ⟨risingFrom_erase hm.1, fun c hc => hm.2 c (mem_erase hc)⟩
  · refine ⟨risingFrom_insert (Nat.zero_le _) hm.1, fun c hc => ?_⟩
    rcases mem_insert hc with rfl | hc
    · exact ⟨ha, by assumption⟩
    · exact hm.2 c hc

theorem Memory.wf_nil (font : Font) : Memory.wf font [] = true := rfl

/-! ### Memory of a state -/

@[simp] theorem State.readByte_writeByte (s : State) (a c : Nat) (b : Byte) :
    (s.writeByte a b).readByte c = if c = a then b else s.readByte c := by
  simp [readByte, Memory.read_write]

/-- `writeBytes` writes memory and nothing else. -/
theorem State.writeBytes_eq (s : State) (a : Nat) (bs : List Byte) :
    s.writeBytes a bs = { s with mem := (s.writeBytes a bs).mem } := by
  induction bs generalizing s a with
  | nil => rfl
  | cons b bs ih => rw [writeBytes, ih]; rfl

@[simp] theorem State.writeBytes_cfg (s : State) (a : Nat) (bs : List Byte) : (s.writeBytes a bs).cfg = s.cfg := by
  rw [writeBytes_eq]

/-- After `writeBytes`, the bytes stored are read back, and every other address reads as before. -/
theorem State.readByte_writeBytes (s : State) (a c : Nat) (bs : List Byte) :
    (s.writeBytes a bs).readByte c = if h : a ≤ c ∧ c - a < bs.length then bs[c - a] else s.readByte c := by
  induction bs generalizing s a with
  | nil => simp [writeBytes]
  | cons b bs ih =>
    rw [writeBytes, ih]
    by_cases hc : c = a
    · subst hc; simp
    · by_cases h : a + 1 ≤ c
      · have e : c - a = (c - (a + 1)) + 1 := by omega
        simp only [e, List.getElem_cons_succ, List.length_cons]
        by_cases h2 : c - (a + 1) < bs.length
        · simp [h, h2, show a ≤ c by omega]
        · simp [h2, hc]
      · have : ¬ a ≤ c := by omega
        simp [h, this, hc]

/-- Stores inside the 4096 bytes keep the canonical form. -/
theorem State.wf_writeBytes {s : State} {a : Nat} {bs : List Byte} (ha : a + bs.length ≤ 4096)
    (hm : Memory.wf s.cfg.font s.mem = true) : Memory.wf s.cfg.font (s.writeBytes a bs).mem = true := by
  induction bs generalizing s a with
  | nil => exact hm
  | cons b bs ih =>
    simp only [List.length_cons] at ha
    exact ih (s := s.writeByte a b) (by omega) (Memory.wf_write (by omega) hm)

/-- Memory reads depend on the memory and the font alone. -/
theorem State.readByte_congr {s t : State} (hm : t.mem = s.mem) (hc : t.cfg = s.cfg) (a : Nat) : t.readByte a = s.readByte a := by
  simp [readByte, hm, hc]

end Sys2Proof.Machine
end

