-- ==== Sys2Proof/Laws/Ops.lean ====
section
/-! SUPPORT. One lemma for each shared operation that says everything it can do. -/

namespace Sys2Proof.Machine

section Reads

variable (s : State)

/-! ### Register and memory reads after each update -/

@[simp] theorem State.readByte_setV (r : RegIx) (b : Byte) (c : Nat) : (s.setV r b).readByte c = s.readByte c := rfl
@[simp] theorem State.readByte_setFlagged (x : RegIx) (b f : Byte) (c : Nat) : (s.setFlagged x b f).readByte c = s.readByte c := rfl
@[simp] theorem State.getV_setI (w : Word) (r' : RegIx) : (s.setI w).getV r' = s.getV r' := rfl
@[simp] theorem State.readByte_setI (w : Word) (c : Nat) : (s.setI w).readByte c = s.readByte c := rfl
@[simp] theorem State.getV_setPc (w : Word) (r' : RegIx) : (s.setPc w).getV r' = s.getV r' := rfl
@[simp] theorem State.readByte_setPc (w : Word) (c : Nat) : (s.setPc w).readByte c = s.readByte c := rfl
@[simp] theorem State.getV_skipIf (c : Bool) (r' : RegIx) : (s.skipIf c).getV r' = s.getV r' := rfl
@[simp] theorem State.readByte_skipIf (b : Bool) (c : Nat) : (s.skipIf b).readByte c = s.readByte c := rfl
@[simp] theorem State.getV_rewind (r' : RegIx) : s.rewind.getV r' = s.getV r' := rfl
@[simp] theorem State.readByte_rewind (c : Nat) : s.rewind.readByte c = s.readByte c := rfl
@[simp] theorem State.getV_advance (r' : RegIx) : s.advance.getV r' = s.getV r' := rfl
@[simp] theorem State.readByte_advance (c : Nat) : s.advance.readByte c = s.readByte c := rfl
@[simp] theorem State.getV_writeByte (a : Nat) (b : Byte) (r' : RegIx) : (s.writeByte a b).getV r' = s.getV r' := rfl
@[simp] theorem State.readByte_loadLowRegs (x : RegIx) (a : Nat) (c : Nat) : (s.loadLowRegs x a).readByte c = s.readByte c := rfl
@[simp] theorem State.getV_setDT (b : Byte) (r' : RegIx) : (s.setDT b).getV r' = s.getV r' := rfl
@[simp] theorem State.readByte_setDT (b : Byte) (c : Nat) : (s.setDT b).readByte c = s.readByte c := rfl
@[simp] theorem State.getV_setST (b : Byte) (r' : RegIx) : (s.setST b).getV r' = s.getV r' := rfl
@[simp] theorem State.readByte_setST (b : Byte) (c : Nat) : (s.setST b).readByte c = s.readByte c := rfl
@[simp] theorem State.getV_draw (r' : RegIx) : s.draw.2.getV r' = s.getV r' := rfl
@[simp] theorem State.readByte_draw (c : Nat) : s.draw.2.readByte c = s.readByte c := rfl
@[simp] theorem State.getV_setDisplay (g : Grid) (c : Bool) (r' : RegIx) : (s.setDisplay g c).getV r' = s.getV r' := rfl
@[simp] theorem State.readByte_setDisplay (g : Grid) (b : Bool) (c : Nat) : (s.setDisplay g b).readByte c = s.readByte c := rfl
@[simp] theorem State.getV_setLatch (b : Bool) (r' : RegIx) : (s.setLatch b).getV r' = s.getV r' := rfl
@[simp] theorem State.readByte_setLatch (b : Bool) (c : Nat) : (s.setLatch b).readByte c = s.readByte c := rfl
@[simp] theorem State.getV_snapshotKeys (r' : RegIx) : s.snapshotKeys.getV r' = s.getV r' := rfl
@[simp] theorem State.readByte_snapshotKeys (c : Nat) : s.snapshotKeys.readByte c = s.readByte c := rfl

end Reads

@[simp] theorem State.getV_setV (s : State) (x r : RegIx) (b : Byte) :
    (s.setV x b).getV r = if r = x then b else s.getV r := by
  by_cases h : r = x
  · subst h; simp [getV]
  · simp [getV, h, Fin.val_inj, Ne.symm h]

/-- The flag is written last and wins (R10). -/
@[simp] theorem State.getV_setFlagged (s : State) (x r : RegIx) (b f : Byte) :
    (s.setFlagged x b f).getV r = if r = VF then f else if r = x then b else s.getV r := by
  simp [setFlagged]

@[simp] theorem State.getV_loadLowRegs (s : State) (x r : RegIx) (a : Nat) :
    (s.loadLowRegs x a).getV r = if r ≤ x then s.readByte (a + r.val) else s.getV r := by
  simp only [getV, loadLowRegs, Vector.getElem_ofFn, Fin.le_def]

@[simp] theorem State.getV_writeBytes (s : State) (a : Nat) (bs : List Byte) (r : RegIx) :
    (s.writeBytes a bs).getV r = s.getV r := by
  rw [writeBytes_eq]; rfl

/-! ### Ranges and faults -/

/-- `CheckRange` passes exactly when every one of the `n` bytes lies in memory (R9). -/
theorem checkRange_none_iff (a n : Nat) : checkRange a n = none ↔ n = 0 ∨ a + n ≤ 0x1000 := by
  unfold checkRange; split <;> [simp [*]; skip]; split <;> simp <;> omega

/-- When it does not pass, it reports `max(a, 0x1000)` (R9). -/
theorem checkRange_some_iff (a n : Nat) (w : Word) :
    checkRange a n = some w ↔ n ≠ 0 ∧ 0x1000 < a + n ∧ w = BitVec.ofNat 16 (max a 0x1000) := by
  unfold checkRange
  split
  · simp [*]
  · split
    · simp only [Option.some.injEq]; constructor
      · rintro rfl; exact ⟨by assumption, by omega, rfl⟩
      · rintro ⟨-, -, rfl⟩; rfl
    · simp; omega

/-- A fault is raised by no `next`. -/
@[simp] theorem raise_ne_next (f : Word → Fault) (s t : State) : raise f s ≠ .next t := by simp [raise]

@[simp] theorem raise_ne_refused (f : Word → Fault) (s : State) (r : Refusal) : raise f s ≠ .refused r := by simp [raise]

/-- A ranged access either passes its check and goes on, or raises the range fault. -/
theorem withRange_cases (a n : Nat) (s : State) (k : Host.Outcome State Fault Refusal) :
    ((n = 0 ∨ a + n ≤ 0x1000) ∧ withRange a n s k = k) ∨
    (n ≠ 0 ∧ 0x1000 < a + n ∧
      withRange a n s k = .fault (.memoryOutOfBounds (s.pc - 2) (BitVec.ofNat 16 (max a 0x1000)))) := by
  unfold withRange
  cases h : checkRange a n with
  | none => exact .inl ⟨(checkRange_none_iff a n).1 h, rfl⟩
  | some w =>
    obtain ⟨h1, h2, rfl⟩ := (checkRange_some_iff a n w).1 h
    exact .inr ⟨h1, h2, rfl⟩

theorem withRange_inside {a n : Nat} (h : n = 0 ∨ a + n ≤ 0x1000) (s : State) (k : Host.Outcome State Fault Refusal) :
    withRange a n s k = k := by
  rcases withRange_cases a n s k with h' | h'
  · exact h'.2
  · omega

theorem withRange_outside {a n : Nat} (hn : n ≠ 0) (h : 0x1000 < a + n) (s : State) (k : Host.Outcome State Fault Refusal) :
    withRange a n s k = .fault (.memoryOutOfBounds (s.pc - 2) (BitVec.ofNat 16 (max a 0x1000))) := by
  rcases withRange_cases a n s k with h' | h'
  · omega
  · exact h'.2.2

/-- Only an access inside memory completes. -/
theorem withRange_next {a n : Nat} {s t : State} {k : Host.Outcome State Fault Refusal} (h : withRange a n s k = .next t) :
    (n = 0 ∨ a + n ≤ 0x1000) ∧ k = .next t := by
  rcases withRange_cases a n s k with h' | h'
  · exact ⟨h'.1, h'.2 ▸ h⟩
  · rw [h'.2.2] at h; cases h

/-! ### The call stack -/

theorem State.pushCall_some_iff (s t : State) (w : Word) :
    s.pushCall w = some t ↔ ∃ h : s.sp.toNat + 1 < 16,
      t = { s with sp := s.sp + 1, stack := s.stack.set (s.sp.toNat + 1) s.pc, pc := w } := by
  unfold pushCall; split <;> simp [*, eq_comm]

theorem State.popReturn_some_iff (s t : State) :
    s.popReturn = some t ↔ ∃ h : s.sp.toNat < 16, t = { s with pc := s.stack[s.sp.toNat], sp := s.sp - 1 } := by
  unfold popReturn; split <;> simp [*, eq_comm]

/-! ### Keys -/

theorem State.pressSeen_iff (s : State) : s.pressSeen = true ↔ ∃ k : Fin 16, Pressed s k := by
  simp [pressSeen, Pressed]

theorem State.lowestRelease_none_iff (s : State) : s.lowestRelease = none ↔ ∀ k : Fin 16, ¬ Released s k := by
  simp [lowestRelease, Released]

/-- The lowest released key, and no lower one was released. -/
theorem State.lowestRelease_some_iff (s : State) (k : Fin 16) :
    s.lowestRelease = some k ↔ Released s k ∧ ∀ j, j < k → ¬ Released s j := by
  rw [lowestRelease, List.find?_eq_some_iff_getElem]
  simp only [Released, List.getElem_finRange, List.length_finRange]
  constructor
  · rintro ⟨hk, i, hi, rfl, hj⟩
    refine ⟨by simpa using hk, fun j hlt => ?_⟩
    have := hj j.val hlt
    grind
  · rintro ⟨hk, hj⟩
    refine ⟨by simpa using hk, k.val, k.isLt, rfl, fun j hlt => ?_⟩
    have := hj ⟨j, by omega⟩ hlt
    grind

theorem State.keyIndex_of_lt (s : State) (x : RegIx) (h : (s.getV x).toNat < 16) :
    s.keyIndex x = some ⟨(s.getV x).toNat, h⟩ := by simp [keyIndex, h]

theorem State.keyIndex_of_ge (s : State) (x : RegIx) (h : 15 < (s.getV x).toNat) : s.keyIndex x = none := by
  simp [keyIndex]; omega

/-! ### Stages of a tick -/

theorem endTick_next_iff (o : Host.Outcome State Fault Refusal) (t : State) :
    endTick o = .next t ↔ ∃ u, o = .next u ∧ t = u.snapshotKeys := by
  cases o <;> simp [endTick, eq_comm]

theorem endTick_fault_iff (o : Host.Outcome State Fault Refusal) (f : Fault) : endTick o = .fault f ↔ o = .fault f := by
  cases o <;> simp [endTick]

/-- Fetch and decode give an instruction exactly when both bytes lie in memory and their word decodes to it. -/
theorem fetchDecode_ok_iff (s : State) (i : Instr) :
    fetchDecode s = .ok i ↔ s.pc.toNat ≤ 0xFFE ∧ decode s.fetchWord = .ok i := by
  unfold fetchDecode
  cases h : checkRange s.pc.toNat 2 with
  | none =>
    have := (checkRange_none_iff _ _).1 h
    cases decode s.fetchWord
    · simp
    · simp; omega
  | some w =>
    have := (checkRange_some_iff _ _ _).1 h
    simp; omega

/-- Everything a completed step did: a running block fetched and decoded an instruction, ran it with `pc` advanced, and took the
keypad snapshot. -/
theorem step_next_iff (s t : State) :
    step s = .next t ↔ s.status = .running ∧ ∃ i u, fetchDecode s = .ok i ∧ exec i s.advance = .next u ∧ t = u.snapshotKeys := by
  unfold step
  cases h : s.status with
  | faulted r => simp
  | running =>
    cases hf : fetchDecode s with
    | error f => simp
    | ok i => simp [endTick_next_iff]

/-- Everything a faulting step met: the block was faulted, the fetch or the decoding failed, or the instruction faulted. -/
theorem step_fault_iff (s : State) (f : Fault) :
    step s = .fault f ↔ (∃ r, s.status = .faulted r ∧ f = .halted r) ∨
      (s.status = .running ∧ (fetchDecode s = .error f ∨ ∃ i, fetchDecode s = .ok i ∧ exec i s.advance = .fault f)) := by
  unfold step
  cases h : s.status with
  | faulted r => simp [eq_comm]
  | running =>
    cases hf : fetchDecode s with
    | error g => simp
    | ok i => simp [endTick_fault_iff]

end Sys2Proof.Machine
end

