-- ==== Sys2Proof/Laws/Display.lean ====
section
/-! SUPPORT. What a draw does to a pixel, and when it hits or touches one. -/

namespace Sys2Proof.Machine

/-- A pixel after a draw: XORed where the sprite covers it. -/
theorem drawSprite_pixel (g : Grid) (rows : List Byte) (y0 x0 : Nat) (r : Fin 32) (c : Fin 64) :
    (drawSprite g rows y0 x0)[r.val][c.val] = (g[r.val][c.val] ^^ spriteCovers rows y0 x0 r.val c.val) := by
  simp [drawSprite]

/-- The loop of R89 meets a condition exactly when some covered pixel of the screen does. -/
theorem spriteAny_iff (rows : List Byte) (y0 x0 : Nat) (p : Nat → Nat → Bool) :
    spriteAny rows y0 x0 p = true ↔
      ∃ (r : Fin 32) (c : Fin 64), spriteCovers rows y0 x0 r.val c.val = true ∧ p r.val c.val = true := by
  simp only [spriteAny, spriteCovers, List.any_eq_true, List.mem_range, Bool.and_eq_true, decide_eq_true_eq]
  constructor
  · rintro ⟨r, hr, c, hc, ⟨⟨hy, hx⟩, hb⟩, hp⟩
    refine ⟨⟨y0 + r, by omega⟩, ⟨x0 + c, by omega⟩, ⟨⟨⟨⟨?_, ?_⟩, ?_⟩, ?_⟩, ?_⟩, hp⟩
    · exact Nat.le_add_right _ _
    · exact Nat.add_lt_add_left hr _
    · exact Nat.le_add_right _ _
    · exact Nat.add_lt_add_left hc _
    · simpa using hb
  · rintro ⟨r, c, ⟨⟨⟨⟨h1, h2⟩, h3⟩, h4⟩, hb⟩, hp⟩
    refine ⟨r.val - y0, by omega, c.val - x0, by omega, ⟨⟨by omega, by omega⟩, hb⟩, ?_⟩
    rwa [Nat.add_sub_cancel' h1, Nat.add_sub_cancel' h3]

theorem spriteTouches_iff (rows : List Byte) (y0 x0 : Nat) :
    spriteTouches rows y0 x0 = true ↔ ∃ (r : Fin 32) (c : Fin 64), spriteCovers rows y0 x0 r.val c.val = true := by
  simp [spriteTouches, spriteAny_iff]

theorem spriteHits_iff (g : Grid) (rows : List Byte) (y0 x0 : Nat) :
    spriteHits g rows y0 x0 = true ↔
      ∃ (r : Fin 32) (c : Fin 64), spriteCovers rows y0 x0 r.val c.val = true ∧ g[r.val][c.val] = true := by
  simp [spriteHits, spriteAny_iff, Grid.pixel]

@[simp] theorem State.readBytes_length (s : State) (a n : Nat) : (s.readBytes a n).length = n := by simp [readBytes]

/-- The sprite read from `I` covers a pixel exactly when a set bit of it lands there (R87, R90). -/
theorem spriteCovers_readBytes_iff (s : State) (n y0 x0 row col : Nat) :
    spriteCovers (s.readBytes s.i.toNat n) y0 x0 row col = true ↔ SpriteBitAt s n y0 x0 row col := by
  simp only [spriteCovers, SpriteBitAt, spriteBit, Bool.and_eq_true, decide_eq_true_eq, State.readBytes_length]
  constructor
  · rintro ⟨⟨⟨⟨h1, h2⟩, h3⟩, h4⟩, hb⟩
    refine ⟨h1, h2, h3, by omega, ?_⟩
    have e : x0 + 7 - col = 7 - (col - x0) := by omega
    rw [e]
    simpa [State.readBytes, List.getD_eq_getElem?_getD, show row - y0 < n by omega] using hb
  · rintro ⟨h1, h2, h3, h4, hb⟩
    refine ⟨⟨⟨⟨h1, h2⟩, h3⟩, by omega⟩, ?_⟩
    have e : x0 + 7 - col = 7 - (col - x0) := by omega
    rw [e] at hb
    simpa [State.readBytes, List.getD_eq_getElem?_getD, show row - y0 < n by omega] using hb

end Sys2Proof.Machine
end

