-- ==== Sys2Proof/Laws/Frames.lean ====
section
/-! SUPPORT. Frames compose: keeping a part is reflexive and transitive, and a frame weakens. -/

namespace Sys2Proof

open Machine

theorem Kept.refl (p : Part) (s : State) : Kept p s s := by cases p <;> simp [Kept]

theorem Kept.trans {p : Part} {s t u : State} (h : Kept p s t) (h' : Kept p t u) : Kept p s u := by
  cases p <;> simp only [Kept] at * <;> grind

theorem KeptBut.refl (ps : List Part) (s : State) : KeptBut ps s s := fun p _ => Kept.refl p s

/-- Two frames one after the other keep what both keep. -/
theorem KeptBut.trans {ps qs : List Part} {s t u : State} (h : KeptBut ps s t) (h' : KeptBut qs t u) : KeptBut (ps ++ qs) s u := by
  intro p hp
  rw [List.mem_append, not_or] at hp
  exact (h p hp.1).trans (h' p hp.2)

theorem KeptBut.mono {ps qs : List Part} {s t : State} (hsub : ∀ p ∈ ps, p ∈ qs) (h : KeptBut ps s t) : KeptBut qs s t :=
  fun p hp => h p fun hps => hp (hsub p hps)

/-- A part that is kept anyway leaves the list. -/
theorem KeptBut.drop {p : Part} {ps qs : List Part} {s t : State} (h : KeptBut ps s t) (hp : Kept p s t)
    (hsub : ∀ q ∈ ps, q = p ∨ q ∈ qs) : KeptBut qs s t := by
  intro q hq
  by_cases e : q = p
  · exact e ▸ hp
  · exact h q fun hqs => (hsub q hqs).elim e hq

theorem Machine.State.writeBytes_keptBut (s : State) (a : Nat) (bs : List Byte) : KeptBut [.memory] s (s.writeBytes a bs) := by
  rw [State.writeBytes_eq]
  intro p hp
  cases p <;> simp [Kept] at hp ⊢
  intro r; rfl

end Sys2Proof
end

