-- ==== Sys2Proof/Laws/PerInstr.lean ====
section
/-! SUPPORT. One lemma per constructor: an instruction's word carries the fixed digits of its row of the opcode table (R52, R56). -/

namespace Sys2Proof.Laws.FixedDigits

/-- The word of an instruction has its row's leading digit, and the trailing digit, the low byte or the whole word where the row's mask
fixes them. -/
def Statement (i : Instr) : Prop :=
  (encode i).toNat / 4096 = i.matchMask.1.toNat / 4096 ∧
  (i.matchMask.2 = 0xF00F → (encode i).toNat % 16 = i.matchMask.1.toNat % 16) ∧
  (i.matchMask.2 = 0xF0FF → (encode i).toNat % 256 = i.matchMask.1.toNat % 256) ∧
  (i.matchMask.2 = 0xFFFF → encode i = i.matchMask.1)

/-- The digits of a word spelled in four hex digits. -/
theorem hexWord_digits {d3 d2 d1 d0 : Nat} (h3 : d3 < 16) (h2 : d2 < 16) (h1 : d1 < 16) (h0 : d0 < 16) :
    (hexWord d3 d2 d1 d0).toNat / 4096 = d3 ∧ (hexWord d3 d2 d1 d0).toNat % 16 = d0 ∧
      (hexWord d3 d2 d1 d0).toNat % 256 = d1 * 16 + d0 := by
  simp only [hexWord, BitVec.toNat_ofNat]; omega

theorem hexWordXK_lead {d3 : Nat} (h3 : d3 < 16) (x : RegIx) (kk : Byte) : (hexWordXK d3 x kk).toNat / 4096 = d3 := by
  have := kk.isLt
  simp only [hexWordXK, BitVec.toNat_ofNat]; omega

theorem hexWordA_lead {d3 : Nat} (h3 : d3 < 16) (nnn : Addr) : (hexWordA d3 nnn).toNat / 4096 = d3 := by
  have := nnn.isLt
  simp only [hexWordA, BitVec.toNat_ofNat]; omega

theorem cls : Statement (.cls) := by
  simp [Statement, encode, Instr.matchMask, hexWord]
theorem ret : Statement (.ret) := by
  simp [Statement, encode, Instr.matchMask, hexWord]
theorem jp (nnn : Addr) : Statement (.jp nnn) := by
  simp [Statement, encode, Instr.matchMask, hexWordA_lead (show 1 < 16 by decide) nnn]
theorem call (nnn : Addr) : Statement (.call nnn) := by
  simp [Statement, encode, Instr.matchMask, hexWordA_lead (show 2 < 16 by decide) nnn]
theorem seByte (x : RegIx) (kk : Byte) : Statement (.seByte x kk) := by
  simp [Statement, encode, Instr.matchMask, hexWordXK_lead (show 3 < 16 by decide) x kk]
theorem sneByte (x : RegIx) (kk : Byte) : Statement (.sneByte x kk) := by
  simp [Statement, encode, Instr.matchMask, hexWordXK_lead (show 4 < 16 by decide) x kk]
theorem seReg (x y : RegIx) : Statement (.seReg x y) := by
  have h := hexWord_digits (show 5 < 16 by decide) x.isLt y.isLt (show 0 < 16 by decide)
  simp [Statement, encode, Instr.matchMask, h]
theorem sneReg (x y : RegIx) : Statement (.sneReg x y) := by
  have h := hexWord_digits (show 9 < 16 by decide) x.isLt y.isLt (show 0 < 16 by decide)
  simp [Statement, encode, Instr.matchMask, h]
theorem ldByte (x : RegIx) (kk : Byte) : Statement (.ldByte x kk) := by
  simp [Statement, encode, Instr.matchMask, hexWordXK_lead (show 6 < 16 by decide) x kk]
theorem addByte (x : RegIx) (kk : Byte) : Statement (.addByte x kk) := by
  simp [Statement, encode, Instr.matchMask, hexWordXK_lead (show 7 < 16 by decide) x kk]
theorem ldReg (x y : RegIx) : Statement (.ldReg x y) := by
  have h := hexWord_digits (show 8 < 16 by decide) x.isLt y.isLt (show 0 < 16 by decide)
  simp [Statement, encode, Instr.matchMask, h]
theorem orReg (x y : RegIx) : Statement (.orReg x y) := by
  have h := hexWord_digits (show 8 < 16 by decide) x.isLt y.isLt (show 1 < 16 by decide)
  simp [Statement, encode, Instr.matchMask, h]
theorem andReg (x y : RegIx) : Statement (.andReg x y) := by
  have h := hexWord_digits (show 8 < 16 by decide) x.isLt y.isLt (show 2 < 16 by decide)
  simp [Statement, encode, Instr.matchMask, h]
theorem xorReg (x y : RegIx) : Statement (.xorReg x y) := by
  have h := hexWord_digits (show 8 < 16 by decide) x.isLt y.isLt (show 3 < 16 by decide)
  simp [Statement, encode, Instr.matchMask, h]
theorem addReg (x y : RegIx) : Statement (.addReg x y) := by
  have h := hexWord_digits (show 8 < 16 by decide) x.isLt y.isLt (show 4 < 16 by decide)
  simp [Statement, encode, Instr.matchMask, h]
theorem sub (x y : RegIx) : Statement (.sub x y) := by
  have h := hexWord_digits (show 8 < 16 by decide) x.isLt y.isLt (show 5 < 16 by decide)
  simp [Statement, encode, Instr.matchMask, h]
theorem shr (x y : RegIx) : Statement (.shr x y) := by
  have h := hexWord_digits (show 8 < 16 by decide) x.isLt y.isLt (show 6 < 16 by decide)
  simp [Statement, encode, Instr.matchMask, h]
theorem subn (x y : RegIx) : Statement (.subn x y) := by
  have h := hexWord_digits (show 8 < 16 by decide) x.isLt y.isLt (show 7 < 16 by decide)
  simp [Statement, encode, Instr.matchMask, h]
theorem shl (x y : RegIx) : Statement (.shl x y) := by
  have h := hexWord_digits (show 8 < 16 by decide) x.isLt y.isLt (show 14 < 16 by decide)
  simp [Statement, encode, Instr.matchMask, h]
theorem ldI (nnn : Addr) : Statement (.ldI nnn) := by
  simp [Statement, encode, Instr.matchMask, hexWordA_lead (show 10 < 16 by decide) nnn]
theorem jpV0 (nnn : Addr) : Statement (.jpV0 nnn) := by
  simp [Statement, encode, Instr.matchMask, hexWordA_lead (show 11 < 16 by decide) nnn]
theorem rnd (x : RegIx) (kk : Byte) : Statement (.rnd x kk) := by
  simp [Statement, encode, Instr.matchMask, hexWordXK_lead (show 12 < 16 by decide) x kk]
theorem drw (x y : RegIx) (n : Nat) : Statement (.drw x y n) := by
  have h := hexWord_digits (show 13 < 16 by decide) x.isLt y.isLt (Nat.mod_lt n (by decide : 0 < 16))
  simp [Statement, encode, Instr.matchMask, h]
theorem skp (x : RegIx) : Statement (.skp x) := by
  have h := hexWord_digits (show 14 < 16 by decide) x.isLt (show 9 < 16 by decide) (show 14 < 16 by decide)
  simp [Statement, encode, Instr.matchMask, h]
theorem sknp (x : RegIx) : Statement (.sknp x) := by
  have h := hexWord_digits (show 14 < 16 by decide) x.isLt (show 10 < 16 by decide) (show 1 < 16 by decide)
  simp [Statement, encode, Instr.matchMask, h]
theorem ldVxDT (x : RegIx) : Statement (.ldVxDT x) := by
  have h := hexWord_digits (show 15 < 16 by decide) x.isLt (show 0 < 16 by decide) (show 7 < 16 by decide)
  simp [Statement, encode, Instr.matchMask, h]
theorem ldVxK (x : RegIx) : Statement (.ldVxK x) := by
  have h := hexWord_digits (show 15 < 16 by decide) x.isLt (show 0 < 16 by decide) (show 10 < 16 by decide)
  simp [Statement, encode, Instr.matchMask, h]
theorem ldDTVx (x : RegIx) : Statement (.ldDTVx x) := by
  have h := hexWord_digits (show 15 < 16 by decide) x.isLt (show 1 < 16 by decide) (show 5 < 16 by decide)
  simp [Statement, encode, Instr.matchMask, h]
theorem ldSTVx (x : RegIx) : Statement (.ldSTVx x) := by
  have h := hexWord_digits (show 15 < 16 by decide) x.isLt (show 1 < 16 by decide) (show 8 < 16 by decide)
  simp [Statement, encode, Instr.matchMask, h]
theorem addI (x : RegIx) : Statement (.addI x) := by
  have h := hexWord_digits (show 15 < 16 by decide) x.isLt (show 1 < 16 by decide) (show 14 < 16 by decide)
  simp [Statement, encode, Instr.matchMask, h]
theorem ldF (x : RegIx) : Statement (.ldF x) := by
  have h := hexWord_digits (show 15 < 16 by decide) x.isLt (show 2 < 16 by decide) (show 9 < 16 by decide)
  simp [Statement, encode, Instr.matchMask, h]
theorem ldB (x : RegIx) : Statement (.ldB x) := by
  have h := hexWord_digits (show 15 < 16 by decide) x.isLt (show 3 < 16 by decide) (show 3 < 16 by decide)
  simp [Statement, encode, Instr.matchMask, h]
theorem storeRegs (x : RegIx) : Statement (.storeRegs x) := by
  have h := hexWord_digits (show 15 < 16 by decide) x.isLt (show 5 < 16 by decide) (show 5 < 16 by decide)
  simp [Statement, encode, Instr.matchMask, h]
theorem loadRegs (x : RegIx) : Statement (.loadRegs x) := by
  have h := hexWord_digits (show 15 < 16 by decide) x.isLt (show 6 < 16 by decide) (show 5 < 16 by decide)
  simp [Statement, encode, Instr.matchMask, h]

end Sys2Proof.Laws.FixedDigits
end

