-- ==== Sys2Proof/Tests/Slice0.lean ====
section
/-! SUPPORT. Tests: every word of the opcode table against its encoding, the `WellFormed` smoke, one-step vectors of 95_test_vectors.md
(each named by its id there), and a witness for each hypothesis and clause of the statements. -/

namespace Sys2Proof.Tests

open Sys2Proof.Machine

/-! ### Helpers -/

/-- The outcome is a next state that passes the check. -/
def passes (o : Host.Outcome State Fault Refusal) (p : State → Bool) : Bool :=
  match o with
  | .next t => p t
  | .fault _ => false
  | .refused _ => false

/-- The outcome is this fault. -/
def stops (o : Host.Outcome State Fault Refusal) (f : Fault) : Bool :=
  match o with
  | .next _ => false
  | .fault g => decide (g = f)
  | .refused _ => false

/-- One step on the word `w` at `pc`. -/
def tickOn (w : Nat) (s : State) : Host.Outcome State Fault Refusal := step (s.withFetchWord 16 w)

/-- The start state of 95_test_vectors.md with the listed registers set. -/
def start (vs : List (RegIx × Byte)) : State := vs.foldl (fun s p => s.setV p.1 p.2) State.reset

theorem passes_next {o : Host.Outcome State Fault Refusal} {p : State → Bool} (h : passes o p = true) :
    ∃ t, o = .next t ∧ p t = true := by
  cases o with
  | next t => exact ⟨t, rfl, h⟩
  | fault _ => cases h
  | refused _ => cases h

theorem stops_fault {o : Host.Outcome State Fault Refusal} {f : Fault} (h : stops o f = true) : o = .fault f := by
  cases o with
  | next _ => cases h
  | fault g => exact congrArg _ (of_decide_eq_true h)
  | refused _ => cases h

/-! ### Decoding: one word for each row of the opcode table, written from the row's encoding (R51, R56) -/

theorem test_decode_cls : decodeTableWord 16 0x00E0 = some (.cls) := by decide
theorem test_decode_ret : decodeTableWord 16 0x00EE = some (.ret) := by decide
theorem test_decode_jp : decodeTableWord 16 0x1234 = some (.jp 0x234) := by decide
theorem test_decode_call : decodeTableWord 16 0x2206 = some (.call 0x206) := by decide
theorem test_decode_seByte : decodeTableWord 16 0x3342 = some (.seByte 3 0x42) := by decide
theorem test_decode_sneByte : decodeTableWord 16 0x4F81 = some (.sneByte 15 0x81) := by decide
theorem test_decode_seReg : decodeTableWord 16 0x5120 = some (.seReg 1 2) := by decide
theorem test_decode_sneReg : decodeTableWord 16 0x9AB0 = some (.sneReg 10 11) := by decide
theorem test_decode_ldByte : decodeTableWord 16 0x6A7B = some (.ldByte 10 0x7B) := by decide
theorem test_decode_addByte : decodeTableWord 16 0x7002 = some (.addByte 0 0x02) := by decide
theorem test_decode_ldReg : decodeTableWord 16 0x8120 = some (.ldReg 1 2) := by decide
theorem test_decode_orReg : decodeTableWord 16 0x80F1 = some (.orReg 0 15) := by decide
theorem test_decode_andReg : decodeTableWord 16 0x8F02 = some (.andReg 15 0) := by decide
theorem test_decode_xorReg : decodeTableWord 16 0x8123 = some (.xorReg 1 2) := by decide
theorem test_decode_addReg : decodeTableWord 16 0x8344 = some (.addReg 3 4) := by decide
theorem test_decode_sub : decodeTableWord 16 0x8565 = some (.sub 5 6) := by decide
theorem test_decode_shr : decodeTableWord 16 0x8786 = some (.shr 7 8) := by decide
theorem test_decode_subn : decodeTableWord 16 0x89A7 = some (.subn 9 10) := by decide
theorem test_decode_shl : decodeTableWord 16 0x8BCE = some (.shl 11 12) := by decide
theorem test_decode_ldI : decodeTableWord 16 0xA301 = some (.ldI 0x301) := by decide
theorem test_decode_jpV0 : decodeTableWord 16 0xBFFE = some (.jpV0 0xFFE) := by decide
theorem test_decode_rnd : decodeTableWord 16 0xC1A5 = some (.rnd 1 0xA5) := by decide
theorem test_decode_drw : decodeTableWord 16 0xD23F = some (.drw 2 3 15) := by decide
theorem test_decode_skp : decodeTableWord 16 0xE29E = some (.skp 2) := by decide
theorem test_decode_sknp : decodeTableWord 16 0xE3A1 = some (.sknp 3) := by decide
theorem test_decode_ldVxDT : decodeTableWord 16 0xF407 = some (.ldVxDT 4) := by decide
theorem test_decode_ldVxK : decodeTableWord 16 0xF50A = some (.ldVxK 5) := by decide
theorem test_decode_ldDTVx : decodeTableWord 16 0xF615 = some (.ldDTVx 6) := by decide
theorem test_decode_ldSTVx : decodeTableWord 16 0xF718 = some (.ldSTVx 7) := by decide
theorem test_decode_addI : decodeTableWord 16 0xF81E = some (.addI 8) := by decide
theorem test_decode_ldF : decodeTableWord 16 0xF929 = some (.ldF 9) := by decide
theorem test_decode_ldB : decodeTableWord 16 0xFA33 = some (.ldB 10) := by decide
theorem test_decode_storeRegs : decodeTableWord 16 0xFB55 = some (.storeRegs 11) := by decide
theorem test_decode_loadRegs : decodeTableWord 16 0xFF65 = some (.loadRegs 15) := by decide

/-- Vector E6: words that match no pattern. -/
theorem test_decode_rejects :
    [0x0000, 0x00E1, 0x00FF, 0x0123, 0x5121, 0x800F, 0x8008, 0x9AB1, 0xE000, 0xE19F, 0xF000, 0xF0FF, 0xF01F].all
      (fun w => decide (decodeTableWord 16 w = none)) = true := by decide

theorem test_decode_truncated : decodeBytes [0x60] = .error .truncated := by rfl

/-! ### Well-formedness: its one check, on each side of the bound -/

theorem test_wf_rejects_height_16 : (Instr.drw 0 0 16).wf = false := by decide
theorem test_wf_accepts_height_15 : (Instr.drw 0 0 15).wf = true := by decide

/-! ### One step on the vectors of 95_test_vectors.md -/

/-- Vector E2. -/
theorem test_cls : passes (tickOn 0x00E0 (State.reset.setPc 0xFFE)) (fun t => t.changed && t.pc == 0x1000 && !t.disp[0][0]) = true := by decide
/-- Vector S5, second step. -/
theorem test_ret : passes (tickOn 0x00EE { State.reset with pc := 0x206, sp := 1, stack := State.reset.stack.set 1 0x202 }) (fun t => t.pc == 0x202 && t.sp == 0 && t.stack[1] == 0x202) = true := by decide
/-- Vector C5. -/
theorem test_ret_underflow : stops (tickOn 0x00EE State.reset) (.stackUnderflow 0x200) = true := by decide
/-- Vector E1. -/
theorem test_jp : passes (tickOn 0x1234 State.reset) (fun t => t.pc == 0x234) = true := by decide
/-- Vector C4. -/
theorem test_call : passes (tickOn 0x2300 { State.reset with sp := 14 }) (fun t => t.pc == 0x300 && t.sp == 15 && t.stack[15] == 0x202) = true := by decide
/-- Vector C3. -/
theorem test_call_overflow : stops (tickOn 0x2300 { State.reset with sp := 15 }) (.stackOverflow 0x200 0x300) = true := by decide
/-- Vector C6. -/
theorem test_seByte_taken : passes (tickOn 0x3342 (start [(3, 0x42)])) (fun t => t.pc == 0x204) = true := by decide
/-- Vector C7. -/
theorem test_seByte_not_taken : passes (tickOn 0x3343 (start [(3, 0x42)])) (fun t => t.pc == 0x202) = true := by decide
/-- Vector C8. -/
theorem test_sneByte_not_taken : passes (tickOn 0x4342 (start [(3, 0x42)])) (fun t => t.pc == 0x202) = true := by decide
/-- Vector C8. -/
theorem test_sneByte_taken : passes (tickOn 0x4343 (start [(3, 0x42)])) (fun t => t.pc == 0x204) = true := by decide
/-- Vector C9. -/
theorem test_seReg_taken : passes (tickOn 0x5120 (start [(1, 0x07), (2, 0x07)])) (fun t => t.pc == 0x204) = true := by decide
/-- Vector C10. -/
theorem test_seReg_not_taken : passes (tickOn 0x5120 (start [(1, 0x07), (2, 0x08)])) (fun t => t.pc == 0x202) = true := by decide
/-- Vector C9. -/
theorem test_sneReg_not_taken : passes (tickOn 0x9120 (start [(1, 0x07), (2, 0x07)])) (fun t => t.pc == 0x202) = true := by decide
/-- Vector C10. -/
theorem test_sneReg_taken : passes (tickOn 0x9120 (start [(1, 0x07), (2, 0x08)])) (fun t => t.pc == 0x204) = true := by decide
/-- Vector C12. -/
theorem test_jpV0 : passes (tickOn 0xBFFF (start [(0, 0xFF)])) (fun t => t.pc == 0x10FE) = true := by decide
/-- Vector S1. -/
theorem test_ldByte : passes (tickOn 0x6A7B State.reset) (fun t => t.getV 10 == 0x7B && t.pc == 0x202) = true := by decide
/-- Vector A2. -/
theorem test_addByte : passes (tickOn 0x7002 (start [(0, 0xFF), (15, 0x55)])) (fun t => t.getV 0 == 0x01 && t.getV 15 == 0x55) = true := by decide
/-- Vector A4. -/
theorem test_ldReg : passes (tickOn 0x8120 (start [(2, 0x09), (15, 0x33)])) (fun t => t.getV 1 == 9 && t.getV 15 == 0x33) = true := by decide
/-- Vector A8. -/
theorem test_orReg_source_VF : passes (tickOn 0x80F1 (start [(0, 0x0F), (15, 0x3C)])) (fun t => t.getV 0 == 0x3F && t.getV 15 == 0) = true := by decide
/-- Vector A9. -/
theorem test_orReg_destination_VF : passes (tickOn 0x8F01 (start [(0, 0x0F), (15, 0x3C)])) (fun t => t.getV 15 == 0) = true := by decide
/-- Vector A6. -/
theorem test_andReg : passes (tickOn 0x8012 (start [(0, 0x0F), (1, 0xF0), (15, 0x01)])) (fun t => t.getV 0 == 0 && t.getV 15 == 0) = true := by decide
/-- Vector A7. -/
theorem test_xorReg : passes (tickOn 0x8013 (start [(0, 0xFF), (1, 0x0F)])) (fun t => t.getV 0 == 0xF0 && t.getV 15 == 0) = true := by decide
/-- Vector S6. -/
theorem test_addReg : passes (tickOn 0x8014 (start [(0, 0xFF), (1, 0x01)])) (fun t => t.getV 0 == 0 && t.getV 15 == 1) = true := by decide
/-- Vector A12. -/
theorem test_addReg_into_VF : passes (tickOn 0x8F14 (start [(15, 0xFF), (1, 0x02)])) (fun t => t.getV 15 == 1) = true := by decide
/-- Vector S7. -/
theorem test_sub : passes (tickOn 0x8015 (start [(0, 0x01), (1, 0x02)])) (fun t => t.getV 0 == 0xFF && t.getV 15 == 0) = true := by decide
/-- Vector A14. -/
theorem test_sub_equal : passes (tickOn 0x8015 (start [(0, 0x05), (1, 0x05)])) (fun t => t.getV 0 == 0 && t.getV 15 == 0) = true := by decide
/-- Vector A18. -/
theorem test_shr : passes (tickOn 0x8016 (start [(0, 0xFF), (1, 0x05)])) (fun t => t.getV 0 == 0x02 && t.getV 15 == 1) = true := by decide
/-- Vector A21. -/
theorem test_subn : passes (tickOn 0x8017 (start [(0, 0x02), (1, 0x01)])) (fun t => t.getV 0 == 0xFF && t.getV 15 == 0) = true := by decide
/-- Vector A22. -/
theorem test_subn_greater : passes (tickOn 0x8017 (start [(0, 0x01), (1, 0x03)])) (fun t => t.getV 0 == 0x02 && t.getV 15 == 1) = true := by decide
/-- Vector A24. -/
theorem test_shl : passes (tickOn 0x801E (start [(1, 0x81)])) (fun t => t.getV 0 == 0x02 && t.getV 15 == 1) = true := by decide
/-- Vector A26. -/
theorem test_shl_into_VF : passes (tickOn 0x8FFE (start [(15, 0x80)])) (fun t => t.getV 15 == 1) = true := by decide
/-- Vector A27, for the draw it names. -/
theorem test_rnd_draw (h : Config.random8 0 = 0xA7) : ∃ t, exec (.rnd 0 0x0F) State.reset = .next t ∧ t.getV 0 = 0x07 :=
  ⟨_, rfl, show Config.random8 0 &&& 0x0F = 0x07 by rw [h]; rfl⟩
/-- Vector A28: any draw. -/
theorem test_rnd_zero_mask : ∃ t, exec (.rnd 0 0x00) State.reset = .next t ∧ t.getV 0 = 0x00 :=
  ⟨_, rfl, show Config.random8 0 &&& 0#8 = 0#8 by simp⟩
/-- Vector M1. -/
theorem test_ldI : passes (tickOn 0xA300 State.reset) (fun t => t.i == 0x300) = true := by decide
/-- Vector M4. -/
theorem test_addI : passes (tickOn 0xF01E ((start [(0, 0xFF)]).setI 0xFF00)) (fun t => t.i == 0xFFFF) = true := by decide
/-- Vector M5. -/
theorem test_addI_overflow : stops (tickOn 0xF01E ((start [(0, 0x01)]).setI 0xFFFF)) (.indexOverflow 0x200 0xFFFF) = true := by decide
/-- Vector S9. -/
theorem test_ldF : passes (tickOn 0xF029 (start [(0, 0x0A)])) (fun t => t.i == 0x032) = true := by decide
/-- Vector M7. -/
theorem test_ldF_unmasked : passes (tickOn 0xF029 (start [(0, 0xFF)])) (fun t => t.i == 0x4FB) = true := by decide
/-- Vector M8. -/
theorem test_ldB : passes (tickOn 0xF533 ((start [(5, 123)]).setI 0x300)) (fun t => t.readBytes 0x300 3 == [1, 2, 3] && t.i == 0x300) = true := by decide
/-- Vector M12. -/
theorem test_ldB_range : stops (tickOn 0xF533 (State.reset.setI 0xFFE)) (.memoryOutOfBounds 0x200 0x1000) = true := by decide
/-- Vector M13. -/
theorem test_storeRegs : passes (tickOn 0xF255 ((start [(0, 1), (1, 2), (2, 3)]).setI 0x400)) (fun t => t.readBytes 0x400 4 == [1, 2, 3, 0] && t.i == 0x403) = true := by decide
/-- Vector M17. -/
theorem test_storeRegs_range : stops (tickOn 0xF055 (State.reset.setI 0x2000)) (.memoryOutOfBounds 0x200 0x2000) = true := by decide
/-- Vector M18. -/
theorem test_loadRegs : passes (tickOn 0xF265 ((State.reset.writeBytes 0x300 [1, 2, 3]).setI 0x300)) (fun t => t.getV 0 == 1 && t.getV 1 == 2 && t.getV 2 == 3 && t.i == 0x303) = true := by decide
/-- Vector M19. -/
theorem test_loadRegs_VF : passes (tickOn 0xFF65 ((State.reset.writeByte 0x30F 0x99).setI 0x300)) (fun t => t.getV 15 == 0x99 && t.i == 0x310) = true := by decide
/-- Vector D4. -/
theorem test_drw_clips : passes (tickOn 0xD011 (((start [(0, 60)]).writeByte 0x300 0xFF).setI 0x300)) (fun t => t.disp[0][60] && t.disp[0][63] && !t.disp[0][0] && !t.disp[0][3] && !t.disp[0][59]) = true := by decide
/-- Vector D6. -/
theorem test_drw_collides : passes (tickOn 0xD012 { State.reset.writeBytes 0x300 [0x80, 0x40] with i := 0x300, disp := State.reset.disp.set 0 (State.reset.disp[0].set 0 true) }) (fun t => !t.disp[0][0] && t.disp[1][1] && t.getV 15 == 1) = true := by decide
/-- Vector K1. -/
theorem test_skp_down : passes (tickOn 0xE19E { start [(1, 5)] with keysCur := State.reset.keysCur.set 5 true }) (fun t => t.pc == 0x204) = true := by decide
/-- Vector K3. -/
theorem test_skp_no_key : stops (tickOn 0xE19E (start [(1, 0x10)])) (.keyIndexOutOfRange 0x200 0x10) = true := by decide
/-- Vector K2. -/
theorem test_sknp_up : passes (tickOn 0xE1A1 (start [(1, 0x05)])) (fun t => t.pc == 0x204) = true := by decide
/-- Vector K12, its last step. -/
theorem test_ldVxDT : passes (tickOn 0xF307 (State.reset.setDT 0x3A)) (fun t => t.getV 3 == 0x3A) = true := by decide
/-- Vector K12, its first step. -/
theorem test_ldDTVx : passes (tickOn 0xF315 (start [(3, 0x3C)])) (fun t => t.dt == 0x3C) = true := by decide
/-- Vector K13. -/
theorem test_ldSTVx : passes (tickOn 0xF018 (start [(0, 0x02)])) (fun t => t.st == 2 && t.shouldBeep) = true := by decide
/-- Vector K6. -/
theorem test_ldVxK_press_wins : passes (tickOn 0xF00A { State.reset with keysPrev := State.reset.keysPrev.set 3 true, keysCur := State.reset.keysCur.set 5 true }) (fun t => t.pc == 0x200 && t.kwLatch && t.keysPrev[5] && !t.keysPrev[3]) = true := by decide
/-- Vector K9. -/
theorem test_ldVxK_lowest_release : passes (tickOn 0xF40A { State.reset with keysPrev := (State.reset.keysPrev.set 2 true).set 9 true }) (fun t => t.getV 4 == 2 && t.pc == 0x202) = true := by decide
/-- Vector E4. -/
theorem test_fetch_range : stops (step (State.reset.setPc 0xFFF)) (.memoryOutOfBounds 0xFFF 0x1000) = true := by decide
/-- Vector E7, its second step: memory that nothing wrote reads 0 and is no instruction. -/
theorem test_fetch_unknown : stops (step (State.reset.setPc 0x202)) (.unknownOpcode 0x202 0x0000) = true := by decide
/-- Vector K17. -/
theorem test_has_changed : ({ State.reset with changed := true } : State).hasChanged.1 = true ∧
    ({ State.reset with changed := true } : State).hasChanged.2.hasChanged.1 = false := by decide
/-- Vector I3. -/
theorem test_load_rom_too_large :
    (State.reset.loadRom State.reset (List.replicate 3585 0)).status = .faulted ⟨.romTooLarge, none, 0x0E01⟩ := by
  simp only [State.loadRom, List.length_replicate]; rfl
/-- Vector I5: under `RESET_RETAINS_ROM` a reset puts the kept program back. -/
theorem test_reset_retains_rom : passes
    (step ((State.init { defaultConfig with resetRetainsRom := true }).loadRom State.reset [0x60, 0x01]).doReset)
    (fun t => t.getV 0 == 1 && t.pc == 0x202) = true := by decide

/-! ### Witnesses: states and operands that meet the hypotheses of the statements, clause by clause at the boundaries -/

theorem witness_DecodeOfEncode : (Instr.drw 15 15 15).wf = true ∧ (Instr.jp 0xFFF).wf = true := by decide

theorem witness_EncodeOfDecode : decode 0xDFFF = .ok (.drw 15 15 15) := by rfl

theorem witness_DecodeAgreesWithMatchAndMask :
    decode 0xFF65 = .ok (.loadRegs 15) ∧ (0xFF65 : Word) &&& (Instr.loadRegs 0).matchMask.2 = (Instr.loadRegs 0).matchMask.1 :=
  ⟨rfl, by decide⟩

/-- A word of each listed group, and one of none. -/
theorem witness_IllegalWordsAreTheListedGroups :
    decode 0x00E1 = .error (.unknownOpcode 0x00E1) ∧ decode 0x5121 = .error (.unknownOpcode 0x5121) ∧
    decode 0x8008 = .error (.unknownOpcode 0x8008) ∧ decode 0x800F = .error (.unknownOpcode 0x800F) ∧
    decode 0x9AB1 = .error (.unknownOpcode 0x9AB1) ∧ decode 0xE19F = .error (.unknownOpcode 0xE19F) ∧
    decode 0xF01F = .error (.unknownOpcode 0xF01F) ∧ decode 0x00EE = .ok .ret := ⟨rfl, rfl, rfl, rfl, rfl, rfl, rfl, rfl⟩

/-- The state of vector E2: `00E0` at the last address an instruction can start at. -/
def atTheTop : State := (State.reset.setPc 0xFFE).withFetchWord 16 0x00E0

theorem witness_StepRunsTheDecodedInstruction :
    atTheTop.status = .running ∧ atTheTop.pc.toNat ≤ 0xFFE ∧
    decode (BitVec.ofNat 16 ((atTheTop.readByte atTheTop.pc.toNat).toNat * 256 + (atTheTop.readByte (atTheTop.pc.toNat + 1)).toNat))
      = .ok .cls := ⟨by decide, by decide, by rfl⟩

theorem witness_FetchReadsTwoBytesOrFaults :
    (State.reset.setPc 0xFFF).status = .running ∧ 0xFFF ≤ (State.reset.setPc 0xFFF).pc.toNat ∧
    atTheTop.status = .running ∧ atTheTop.pc.toNat ≤ 0xFFE := by decide

theorem witness_UnknownOpcodeFaultsWithTheRawWord :
    State.reset.status = .running ∧ State.reset.pc.toNat ≤ 0xFFE ∧
    (0 : Word).toNat = (State.reset.readByte State.reset.pc.toNat).toNat * 256 + (State.reset.readByte (State.reset.pc.toNat + 1)).toNat ∧
    ∀ i, decode 0 ≠ .ok i :=
  ⟨by decide, by decide, by decide, fun _ h => by cases h⟩

theorem witness_NoStepWhileFaulted :
    ({ State.reset with status := .faulted ⟨.unknownOpcode, some 0x202, 0⟩ } : State).status = .faulted ⟨.unknownOpcode, some 0x202, 0⟩ :=
  rfl

theorem witness_CompletedTickTakesTheKeypadSnapshot : ∃ t, step atTheTop = .next t :=
  (passes_next (p := fun _ => true) (by decide)).imp fun _ h => h.1

theorem witness_FaultingTickRecordsItsStatus :
    State.reset.status = .running ∧ State.reset.sp.toNat ≤ 15 ∧ step State.reset = .fault (.unknownOpcode 0x200 0) :=
  ⟨rfl, by decide, stops_fault (by decide)⟩

/-- At the boundary `sp = 15`, `CALL` has its fault condition and `RET` has not. -/
theorem witness_InstructionsFaultExactlyAsTabled :
    let s : State := { State.reset with sp := 15 }
    s.sp.toNat ≤ 15 ∧ (Instr.call 0x300).faultIn s = some (.stackOverflow (s.pc - 2) 0x300) ∧ Instr.ret.faultIn s = none := by decide

theorem witness_RetPopsTheCallStack :
    State.reset.sp = 0 ∧ ({ State.reset with sp := 15 } : State).sp.toNat < 16 ∧ ({ State.reset with sp := 15 } : State).sp ≠ 0 ∧
    ({ State.reset with sp := 1 } : State).sp.toNat < 16 ∧ ({ State.reset with sp := 1 } : State).sp ≠ 0 := by decide

theorem witness_CallPushesTheReturnAddress :
    ({ State.reset with sp := 15 } : State).sp = 15 ∧ ({ State.reset with sp := 14 } : State).sp.toNat < 15 := by decide

theorem witness_ReturnUndoesCall : ({ State.reset with sp := 14 } : State).sp.toNat < 15 := by decide

theorem witness_TickOfLoadByte :
    let s := (State.reset.setPc 0xFFE).withFetchWord 16 0x6F7B
    s.status = .running ∧ s.pc.toNat ≤ 0xFFE ∧ (s.readByte s.pc.toNat).toNat = 0x60 + (15 : RegIx).val ∧
    s.readByte (s.pc.toNat + 1) = 0x7B ∧ (14 : RegIx) ≠ 15 := by decide

/-- `kk = 0xFF`, and a register that is not the destination. -/
theorem witness_RandomByteIsMasked : (255#8 : Byte) = 0xFF ∧ (1 : RegIx) ≠ 0 := by decide

theorem witness_AddIndexNeverWraps :
    let s := (start [(0, 0xFF)]).setI 0xFF00
    let t := (start [(0, 0xFF)]).setI 0xFF01
    s.i.toNat + (s.getV 0).toNat ≤ 0xFFFF ∧ 0xFFFF < t.i.toNat + (t.getV 0).toNat := by decide

theorem witness_DecimalDigitsStored :
    (State.reset.setI 0xFFD).i.toNat + 2 ≤ 0xFFF ∧ 0xFFF < (State.reset.setI 0xFFE).i.toNat + 2 := by decide

/-- The same boundaries serve `RegistersLoaded`. -/
theorem witness_RegistersStored :
    (State.reset.setI 0xFF0).i.toNat + (15 : RegIx).val ≤ 0xFFF ∧ 0xFFF < (State.reset.setI 0xFF1).i.toNat + (15 : RegIx).val ∧
    (State.reset.setI 0xFFF).i.toNat + (0 : RegIx).val ≤ 0xFFF ∧ 0xFFF < (State.reset.setI 0x1000).i.toNat + (0 : RegIx).val := by decide

theorem witness_RegistersLoaded :
    (State.reset.setI 0xFF0).i.toNat + (15 : RegIx).val ≤ 0xFFF ∧ 0xFFF < (State.reset.setI 0xFF1).i.toNat + (15 : RegIx).val := by decide

theorem witness_LoadRestoresStoredRegisters :
    (State.reset.setI 0xFF0).i.toNat + (15 : RegIx).val ≤ 0xFFF ∧ (15 : RegIx) ≤ 15 := by decide

/-- The height 0 at any `I`, the last sprite that fits, and the first that does not. -/
theorem witness_DrawFlipsTheCoveredPixels :
    ((0 : Nat) < 16 ∧ ((0 : Nat) = 0 ∨ (State.reset.setI 0xFFFF).i.toNat + 0 ≤ 0x1000)) ∧
    ((15 : Nat) < 16 ∧ (State.reset.setI 0xFF1).i.toNat + 15 ≤ 0x1000) ∧
    (0 < 15 ∧ 0x1000 < (State.reset.setI 0xFF2).i.toNat + 15) ∧ (14 : RegIx) ≠ 15 := by decide

/-- The state of vector D6: one lit pixel under the sprite. -/
def lit : State :=
  { State.reset.writeBytes 0x300 [0x80, 0x40] with
    i := 0x300, disp := State.reset.disp.set 0 (State.reset.disp[0].set 0 true) }

/-- A draw with a collision. -/
theorem witness_DrawReportsCollision_hit : ∃ t, exec (.drw 0 1 2) lit = .next t ∧
    ∃ (r : Fin 32) (c : Fin 64), lit.disp[r.val][c.val] = true ∧ t.disp[r.val][c.val] = false :=
  (passes_next (p := fun t => !t.disp[0][0]) (by decide)).imp fun _ h => ⟨h.1, 0, 0, by decide, by simpa using h.2⟩

/-- A draw without one: nothing was lit. -/
theorem witness_DrawReportsCollision_miss : ∃ t, exec (.drw 0 1 5) State.reset = .next t ∧
    ∀ (r : Fin 32) (c : Fin 64), ¬ (State.reset.disp[r.val][c.val] = true ∧ t.disp[r.val][c.val] = false) :=
  (passes_next (p := fun _ => true) (by decide)).imp fun _ h =>
    ⟨h.1, fun r c hrc => by simp [State.reset, State.init] at hrc⟩

/-- A draw that flips a pixel. -/
theorem witness_DrawMarksChangedOnAFlip : ∃ t, exec (.drw 0 1 2) lit = .next t ∧
    ∃ (r : Fin 32) (c : Fin 64), t.disp[r.val][c.val] ≠ lit.disp[r.val][c.val] :=
  (passes_next (p := fun t => decide (t.disp[0][0] ≠ lit.disp[0][0])) (by decide)).imp fun _ h =>
    ⟨h.1, 0, 0, by simpa using h.2⟩

theorem witness_DrawTwiceRestoresTheDisplay : (0 : RegIx) ≠ 15 ∧ (1 : RegIx) ≠ 15 ∧ ∃ t, exec (.drw 0 1 5) State.reset = .next t :=
  ⟨by decide, by decide, (passes_next (p := fun _ => true) (by decide)).imp fun _ h => h.1⟩

theorem witness_SkipsOnKey : ((start [(1, 15)]).getV 1).toNat < 16 ∧ 15 < ((start [(1, 16)]).getV 1).toNat := by decide

/-- A press; a release of key 15 without the gate, and of key 0 through the armed gate; no edge; and a release the gate turns away. -/
theorem witness_KeyWaitOutcomes :
    let down : State := { State.reset with keysCur := State.reset.keysCur.set 15 true }
    let up15 : State := { State.reset with keysPrev := State.reset.keysPrev.set 15 true }
    let gated : State := { State.init { defaultConfig with keywaitLatchGates := true } with keysPrev := State.reset.keysPrev.set 0 true }
    let armed : State := { gated with kwLatch := true }
    Pressed down 15 ∧
    ((∀ j, ¬ Pressed up15 j) ∧ Released up15 15 ∧ (∀ j, j < 15 → ¬ Released up15 j) ∧ up15.cfg.keywaitLatchGates = false) ∧
    ((∀ j, ¬ Pressed armed j) ∧ Released armed 0 ∧ (∀ j, j < 0 → ¬ Released armed j) ∧ armed.kwLatch = true) ∧
    ((∀ j, ¬ Pressed State.reset j) ∧ ∀ j, ¬ Released State.reset j) ∧
    ((∀ j, ¬ Pressed gated j) ∧ gated.cfg.keywaitLatchGates = true ∧ gated.kwLatch = false) := by
  simp only [Pressed, Released]; decide

theorem witness_PressTakesPrecedenceOverRelease :
    let s : State := { State.reset.withFetchWord 16 0xFF0A with
      keysPrev := State.reset.keysPrev.set 3 true, keysCur := State.reset.keysCur.set 5 true }
    s.status = .running ∧ fetchDecode s = .ok (.ldVxK 15) ∧ (∃ k, Pressed s k) ∧ Released s 3 := by
  refine ⟨rfl, rfl, ⟨5, ?_⟩, ?_⟩ <;> simp only [Pressed, Released] <;> decide

/-- No edge at all. -/
theorem witness_PressTakesPrecedenceOverRelease_no_edge :
    let s := State.reset.withFetchWord 16 0xFF0A
    s.status = .running ∧ fetchDecode s = .ok (.ldVxK 15) ∧ ∀ k, ¬ Pressed s k ∧ ¬ Released s k := by
  refine ⟨rfl, rfl, ?_⟩; simp only [Pressed, Released]; decide

theorem witness_PressThenReleaseCompletesTheWait :
    let s := State.reset.withFetchWord 16 0xFF0A
    s.status = .running ∧ fetchDecode s = .ok (.ldVxK 15) ∧ s.keysCur = Vector.replicate 16 false ∧
    s.keysPrev = Vector.replicate 16 false := ⟨rfl, rfl, rfl, rfl⟩

theorem witness_UngatedLatchIsInvisible : State.reset.cfg.keywaitLatchGates = false := by decide

theorem witness_InstructionsWriteOnlyTheirParts : ∃ t, exec (.storeRegs 15) State.reset = .next t :=
  (passes_next (p := fun _ => true) (by decide)).imp fun _ h => h.1

theorem witness_InstructionsWriteOnlyTheirRegisters :
    (∃ t, exec (.loadRegs 14) State.reset = .next t) ∧ (Instr.loadRegs 14).writesReg 15 = false :=
  ⟨(passes_next (p := fun _ => true) (by decide)).imp fun _ h => h.1, by decide⟩

/-- Two different states: a returned frame has left its entry in `stack[1]` of the second. -/
theorem witness_StaleStackEntriesAreUnobservable :
    let s' : State := { State.reset with stack := State.reset.stack.set 1 0x202 }
    State.reset.sp.toNat ≤ 15 ∧ SameButStaleStack State.reset s' ∧ s' ≠ State.reset := by
  refine ⟨by decide, ⟨fun j h0 hj => ?_, rfl⟩, by decide⟩
  exact absurd (show j.val ≤ 0 from hj) (by omega)

theorem witness_FetchSeesTheStoredWord : (State.reset.setPc 0xFFE).pc.toNat ≤ 0xFFE := by decide

theorem witness_KeyEventsWriteOneCurrentKey : ¬ (0 ≤ (16 : Int) ∧ (16 : Int) ≤ 15) ∧ ¬ (0 ≤ (-1 : Int) ∧ (-1 : Int) ≤ 15) := by decide

theorem witness_LoadRomCopiesOrFaults :
    (List.replicate 0xE00 (0 : Byte)).length ≤ 0xE00 ∧ 0xE00 < (List.replicate 0xE01 (0 : Byte)).length := by
  simp only [List.length_replicate]; decide

/-- A block that keeps its ROM, and one that does not. -/
theorem witness_ResetGivesInitValues :
    let s := (State.init { defaultConfig with resetRetainsRom := true }).loadRom State.reset [0x60, 0x01]
    (s.dataWf = true ∧ s.romImage = some [0x60, 0x01]) ∧ State.reset.dataWf = true ∧ State.reset.cfg.resetRetainsRom = false := by decide

theorem witness_StepKeepsTheInvariant : Inv atTheTop ∧ ∃ t, step atTheTop = .next t :=
  ⟨⟨by decide, fun _ => ⟨by decide, by decide, by decide, by decide⟩⟩, witness_CompletedTickTakesTheKeypadSnapshot⟩

/-- A running block and, after its first step from reset, a faulted one. -/
theorem witness_EveryReachableStateHasTheInvariant :
    Reachable defaultConfig State.reset ∧ Reachable defaultConfig (State.reset.tick State.reset) :=
  ⟨.init, .op .tick State.reset .init rfl (by decide)⟩

/-- A running block, and a residue with its parameters. -/
theorem witness_EveryOperationKeepsTheInvariant :
    Inv atTheTop ∧ State.reset.cfg = atTheTop.cfg ∧ State.reset.dataWf = true :=
  ⟨witness_StepKeepsTheInvariant.1, rfl, by decide⟩

end Sys2Proof.Tests
end

section
/-! PROOFS. The fetch of a tick (30_encoding.md R47, R53): where it faults, and with what. -/

namespace Sys2Proof.Machine

/-- Fetch and decode fail exactly when a byte of the word lies outside memory (R47), or its word matches no pattern (R53). -/
theorem fetchDecode_error_iff (s : State) (f : Fault) :
    fetchDecode s = .error f ↔
      (0xFFF ≤ s.pc.toNat ∧ f = .memoryOutOfBounds s.pc (BitVec.ofNat 16 (max s.pc.toNat 0x1000))) ∨
      (s.pc.toNat ≤ 0xFFE ∧ (∃ r, decode s.fetchWord = .error r) ∧ f = .unknownOpcode s.pc s.fetchWord) := by
  unfold fetchDecode
  cases h : checkRange s.pc.toNat 2 with
  | some info =>
    obtain ⟨-, hpc, rfl⟩ := (checkRange_some_iff _ _ _).1 h
    have outside : 0xFFF ≤ s.pc.toNat := by omega
    have notInside : ¬ s.pc.toNat ≤ 0xFFE := by omega
    simp [outside, notInside, eq_comm]
  | none =>
    have inside : s.pc.toNat ≤ 0xFFE := by
      have := (checkRange_none_iff _ _).1 h
      omega
    have notOutside : ¬ 0xFFF ≤ s.pc.toNat := by omega
    cases decode s.fetchWord <;> simp [inside, notOutside, eq_comm]

/-- A failing fetch stops the tick of a running block. -/
theorem step_of_fetchDecode_error {s : State} {f : Fault} (hs : s.status = .running) (h : fetchDecode s = .error f) :
    step s = .fault f := (step_fault_iff s f).2 (.inr ⟨hs, .inl h⟩)

/-- The word at `pc` is the one number whose high byte is at `pc` and whose low byte is at `pc + 1` (R38). -/
theorem State.fetchWord_eq_of_toNat {s : State} {op : Word}
    (h : op.toNat = (s.readByte s.pc.toNat).toNat * 256 + (s.readByte (s.pc.toNat + 1)).toNat) : s.fetchWord = op := by
  rw [fetchWord, wordOfBytes, ← h, BitVec.ofNat_toNat, BitVec.setWidth_eq]

end Sys2Proof.Machine

open Sys2Proof Sys2Proof.Machine

/-- Settles O7: the fetch fails by its range at `pc ≥ 0xFFF`; below, the two outcomes of `decode` on the fetched word are the two of
the fetch. -/
theorem fetchReadsTwoBytesOrFaults : Obligations.FetchReadsTwoBytesOrFaults := by
  intro s hs
  constructor
  · intro hpc
    exact step_of_fetchDecode_error hs ((fetchDecode_error_iff s _).2 (.inl ⟨hpc, rfl⟩))
  · intro hpc op
    have hop : s.fetchWord = op := rfl
    rw [← hop]
    cases h : decode s.fetchWord with
    | ok i => exact (fetchDecode_ok_iff s i).2 ⟨hpc, h⟩
    | error r => exact (fetchDecode_error_iff s _).2 (.inr ⟨hpc, ⟨r, h⟩, rfl⟩)

/-- Settles O8: a word that decodes to no instruction is rejected by `decode`, so the fetch fails with that word and stops the tick. -/
theorem unknownOpcodeFaultsWithTheRawWord : Obligations.UnknownOpcodeFaultsWithTheRawWord := by
  intro s op hs hpc hop hnone
  obtain rfl := State.fetchWord_eq_of_toNat hop
  refine step_of_fetchDecode_error hs ((fetchDecode_error_iff s _).2 (.inr ⟨hpc, ?_, rfl⟩))
  cases h : decode s.fetchWord with
  | ok i => exact absurd h (hnone i)
  | error r => exact ⟨r, rfl⟩

end

section
/-! PROOFS. Control flow (40_control_flow.md R59, R60, R62, R63): decoding by the leading nibble, the frames of the `pc` updates, and
what `RET`, `JP` and the skips on a byte do. -/

namespace Sys2Proof.Machine

/-! ### Decoding and operands -/

/-- A word spelled as a number decodes to what its leading nibble's patterns give (R52). -/
theorem decode_ofNat_of_lead {n : Nat} {i : Instr} (d : Nat) (hn : n < 65536) (hd : n / 4096 = d)
    (h : decodeLead d (BitVec.ofNat 16 n) = some i) : decode (BitVec.ofNat 16 n) = .ok i :=
  decode_of_pattern ((decodePattern_lead ((fieldLead_ofNat hn).trans hd)).trans h)

theorem decode_jp (nnn : Addr) : decode (BitVec.ofNat 16 (0x1000 + nnn.toNat)) = .ok (.jp nnn) := by
  have nnn_lt := nnn.isLt
  have operand : fieldNNN (BitVec.ofNat 16 (0x1000 + nnn.toNat)) = nnn := fieldNNN_ofNat (by omega)
  exact decode_ofNat_of_lead 1 (by omega) (by omega) (by rw [decodeLead, operand])

/-- The register and the byte of a word of format XK (R50, R51), whatever its leading nibble. -/
theorem fields_of_xk {d : Nat} (hd : d < 16) (x : RegIx) (kk : Byte) :
    fieldX (BitVec.ofNat 16 (d * 0x1000 + x.val * 0x100 + kk.toNat)) = x ∧
    fieldKK (BitVec.ofNat 16 (d * 0x1000 + x.val * 0x100 + kk.toNat)) = kk := by
  have x_lt := x.isLt
  have kk_lt := kk.isLt
  exact ⟨fieldX_ofNat (by omega) (by omega), fieldKK_ofNat (by omega)⟩

theorem decode_seByte (x : RegIx) (kk : Byte) :
    decode (BitVec.ofNat 16 (0x3000 + x.val * 0x100 + kk.toNat)) = .ok (.seByte x kk) := by
  have kk_lt := kk.isLt
  obtain ⟨register, byte⟩ := fields_of_xk (d := 3) (by decide) x kk
  exact decode_ofNat_of_lead 3 (by omega) (by omega) (by rw [decodeLead, register, byte])

theorem decode_sneByte (x : RegIx) (kk : Byte) :
    decode (BitVec.ofNat 16 (0x4000 + x.val * 0x100 + kk.toNat)) = .ok (.sneByte x kk) := by
  have kk_lt := kk.isLt
  obtain ⟨register, byte⟩ := fields_of_xk (d := 4) (by decide) x kk
  exact decode_ofNat_of_lead 4 (by omega) (by omega) (by rw [decodeLead, register, byte])

@[simp] theorem toNat_zextAddr (nnn : Addr) : (zextAddr nnn).toNat = nnn.toNat :=
  BitVec.toNat_setWidth_of_le (by decide)

/-! ### Frames of the updates -/

theorem State.setPc_keptBut (s : State) (w : Word) : KeptBut [.pc] s (s.setPc w) := by
  intro p hp
  cases p <;> simp [Kept] at hp ⊢

/-- A skip writes `pc` and nothing else (R62). -/
theorem State.skipIf_keptBut (s : State) (c : Bool) : KeptBut [.pc] s (s.skipIf c) := s.setPc_keptBut _

/-- Popping a frame writes `pc` and `sp` only (R59). -/
theorem State.popReturn_keptBut {s t : State} (h : s.popReturn = some t) : KeptBut [.pc, .stack] s t := by
  obtain ⟨-, rfl⟩ := (s.popReturn_some_iff t).1 h
  intro p hp
  cases p <;> simp [Kept, State.getV, State.readByte] at hp ⊢

/-! ### Execution -/

theorem exec_ret_of_sp_eq_zero {s : State} (h : s.sp = 0) : exec .ret s = .fault (.stackUnderflow (s.pc - 2)) := by
  simp [exec, execRet, h, raise, State.origin]

theorem exec_ret_of_popReturn {s t : State} (hsp : s.sp ≠ 0) (h : s.popReturn = some t) : exec .ret s = .next t := by
  simp only [exec, execRet, if_neg hsp, h]

theorem exec_jp (nnn : Addr) (s : State) : exec (.jp nnn) s = .next (s.setPc (zextAddr nnn)) := rfl

theorem exec_seByte (x : RegIx) (kk : Byte) (s : State) :
    exec (.seByte x kk) s = .next (s.skipIf (decide (s.getV x = kk))) := rfl

theorem exec_sneByte (x : RegIx) (kk : Byte) (s : State) :
    exec (.sneByte x kk) s = .next (s.skipIf (decide (s.getV x ≠ kk))) := rfl

end Sys2Proof.Machine

open Sys2Proof Sys2Proof.Machine

/-- Settles O13: `sp = 0` is the underflow; otherwise `sp` indexes the stack, so the pop gives a state. -/
theorem retPopsTheCallStack : Obligations.RetPopsTheCallStack := by
  refine ⟨rfl, fun s => ⟨fun hzero => ⟨exec_ret_of_sp_eq_zero hzero, rfl⟩, fun hlt hne => ?_⟩⟩
  have popped : s.popReturn = some { s with pc := s.stack[s.sp.toNat], sp := s.sp - 1 } :=
    (s.popReturn_some_iff _).2 ⟨hlt, rfl⟩
  exact ⟨_, exec_ret_of_popReturn hne popped, rfl, rfl, rfl, State.popReturn_keptBut popped⟩

/-- Settles O14: `JP` is one write of `pc`. -/
theorem jpSetsPc : Obligations.JpSetsPc :=
  fun nnn s => ⟨decode_jp nnn, _, exec_jp nnn s, toNat_zextAddr nnn, s.setPc_keptBut _⟩

/-- Settles O17: both instructions are a skip, on a condition and on its negation. -/
theorem skipsOnByte : Obligations.SkipsOnByte := by
  intro x kk s
  refine ⟨decode_seByte x kk, decode_sneByte x kk, ⟨_, exec_seByte x kk s, ?_, s.skipIf_keptBut _⟩,
    ⟨_, exec_sneByte x kk s, ?_, s.skipIf_keptBut _⟩⟩
  · simp only [State.skipIf_pc, decide_eq_true_eq]
  · simp only [State.skipIf_pc, decide_eq_true_eq, ne_eq, ite_not]

end

section
/-! PROOFS. Register loads (41_register_alu.md R68 to R70): decoding by format, the frame of a register write, and the tick around an
instruction. -/

namespace Sys2Proof.Machine

/-! ### Decoding by format -/

/-- A word of format XK decodes to what its leading nibble gives for its register and byte (R50, R52). -/
theorem decode_xk {d : Nat} {i : Instr} (hd : d < 16) (x : RegIx) (kk : Byte)
    (h : ∀ op, fieldX op = x → fieldKK op = kk → decodeLead d op = some i) :
    decode (BitVec.ofNat 16 (d * 0x1000 + x.val * 0x100 + kk.toNat)) = .ok i := by
  have kk_lt := kk.isLt
  obtain ⟨register, byte⟩ := fields_of_xk hd x kk
  exact decode_ofNat_of_lead d (by omega) (by omega) (h _ register byte)

/-- A word of two registers and a trailing nibble decodes to what its leading nibble gives for them (R50, R52). -/
theorem decode_xyn {d n : Nat} {i : Instr} (hd : d < 16) (hn : n < 16) (x y : RegIx)
    (h : ∀ op, fieldX op = x → fieldY op = y → fieldN op = n → decodeLead d op = some i) :
    decode (BitVec.ofNat 16 (d * 0x1000 + n + x.val * 0x100 + y.val * 0x10)) = .ok i := by
  refine decode_ofNat_of_lead d (by omega) (by omega)
    (h _ (fieldX_ofNat (by omega) (by omega)) (fieldY_ofNat (by omega) (by omega)) ?_)
  rw [fieldN_ofNat]
  omega

theorem decode_ldByte (x : RegIx) (kk : Byte) :
    decode (BitVec.ofNat 16 (0x6000 + x.val * 0x100 + kk.toNat)) = .ok (.ldByte x kk) :=
  decode_xk (d := 6) (by decide) x kk (by rintro op rfl rfl; rfl)

theorem decode_addByte (x : RegIx) (kk : Byte) :
    decode (BitVec.ofNat 16 (0x7000 + x.val * 0x100 + kk.toNat)) = .ok (.addByte x kk) :=
  decode_xk (d := 7) (by decide) x kk (by rintro op rfl rfl; rfl)

theorem decode_ldReg (x y : RegIx) :
    decode (BitVec.ofNat 16 (0x8000 + x.val * 0x100 + y.val * 0x10)) = .ok (.ldReg x y) :=
  decode_xyn (d := 8) (n := 0) (by decide) (by decide) x y
    (by rintro op rfl rfl nibble; simp only [decodeLead, decode8, nibble])

/-! ### One register write -/

theorem State.setV_keptBut (s : State) (x : RegIx) (b : Byte) : KeptBut [.regs] s (s.setV x b) := by
  intro p hp
  cases p <;> simp [Kept] at hp ⊢

/-- An instruction that is one register write gives that register its byte and leaves everything else. -/
theorem exec_writesOnly_of_setV {i : Instr} {s : State} {x : RegIx} {b : Byte} (h : exec i s = .next (s.setV x b)) :
    ∃ t, exec i s = .next t ∧ t.getV x = b ∧ (∀ r, r ≠ x → t.getV r = s.getV r) ∧ KeptBut [.regs] s t := by
  refine ⟨_, h, ?_, fun r hr => ?_, s.setV_keptBut x b⟩
  · rw [State.getV_setV, if_pos rfl]
  · rw [State.getV_setV, if_neg hr]

theorem exec_ldByte (x : RegIx) (kk : Byte) (s : State) : exec (.ldByte x kk) s = .next (s.setV x kk) := rfl

theorem exec_addByte (x : RegIx) (kk : Byte) (s : State) :
    exec (.addByte x kk) s = .next (s.setV x (trunc8 ((s.getV x).toNat + kk.toNat))) := rfl

theorem exec_ldReg (x y : RegIx) (s : State) : exec (.ldReg x y) s = .next (s.setV x (s.getV y)) := rfl

/-! ### The tick around an instruction -/

/-- The bytes `0x60 + x` and `kk` at `pc` are fetched as `LD Vx, byte` (R38, R47, R68). -/
theorem fetchDecode_ldByte {x : RegIx} {kk : Byte} {s : State} (hpc : s.pc.toNat ≤ 0xFFE)
    (hi : (s.readByte s.pc.toNat).toNat = 0x60 + x.val) (lo : s.readByte (s.pc.toNat + 1) = kk) :
    fetchDecode s = .ok (.ldByte x kk) := by
  have kk_lt := kk.isLt
  have word : s.fetchWord = BitVec.ofNat 16 (0x6000 + x.val * 0x100 + kk.toNat) := by
    apply State.fetchWord_eq_of_toNat
    rw [hi, lo, BitVec.toNat_ofNat]
    omega
  exact (fetchDecode_ok_iff s _).2 ⟨hpc, word ▸ decode_ldByte x kk⟩

/-- A running block completes its tick when the fetched instruction completes (R46). -/
theorem step_of_exec_next {i : Instr} {s u : State} (hs : s.status = .running) (hf : fetchDecode s = .ok i)
    (he : exec i s.advance = .next u) : step s = .next u.snapshotKeys :=
  (step_next_iff s _).2 ⟨hs, i, u, hf, he, rfl⟩

/-- The snapshot writes `keys_prev` alone: with the old one put back, the state is as before (R49). -/
theorem State.snapshotKeys_restored (t : State) : { t.snapshotKeys with keysPrev := t.keysPrev } = t := rfl

theorem State.advance_keptBut (s : State) : KeptBut [.pc] s s.advance := s.setPc_keptBut _

end Sys2Proof.Machine

open Sys2Proof Sys2Proof.Machine

/-- Settles O20: the tick is the advance of `pc`, one register write, and the snapshot. -/
theorem tickOfLoadByte : Obligations.TickOfLoadByte := by
  intro x kk s hs hpc hi lo
  obtain ⟨t, completes, loaded, others, frame⟩ := exec_writesOnly_of_setV (exec_ldByte x kk s.advance)
  have tick := step_of_exec_next hs (fetchDecode_ldByte hpc hi lo) completes
  have kept : KeptBut [.regs, .pc] s t := (s.advance_keptBut.trans frame).mono (by decide)
  obtain ⟨keysCur, keysPrev, -⟩ := frame .host (by decide)
  have pc : t.pc = s.pc + 2 := frame .pc (by decide)
  refine ⟨_, tick, loaded, pc, keysCur, others, ?_⟩
  rw [← s.advance_keysPrev, ← keysPrev, t.snapshotKeys_restored]
  exact kept

/-- Settles O21: each of the three is one register write. -/
theorem loadsAndAddByteWriteOnlyVx : Obligations.LoadsAndAddByteWriteOnlyVx := by
  intro x y kk s
  refine ⟨decode_ldByte x kk, decode_addByte x kk, decode_ldReg x y, exec_writesOnly_of_setV (exec_ldByte x kk s), ?_,
    exec_writesOnly_of_setV (exec_ldReg x y s)⟩
  obtain ⟨t, completes, added, frame⟩ := exec_writesOnly_of_setV (exec_addByte x kk s)
  exact ⟨t, completes, by rw [added, trunc8, BitVec.toNat_ofNat], frame⟩

end

section
/-! PROOFS. Index loads and memory transfers (42_index_memory.md R81, R83 to R86): decoding by format, the range check of an
access at `I`, and what the stores and the loads leave. -/

namespace Sys2Proof.Machine

/-! ### Decoding -/

/-- A word of format A decodes to what its leading nibble gives for its address (R50, R52). -/
theorem decode_a {d : Nat} {i : Instr} (hd : d < 16) (nnn : Addr)
    (h : ∀ op, fieldNNN op = nnn → decodeLead d op = some i) :
    decode (BitVec.ofNat 16 (d * 0x1000 + nnn.toNat)) = .ok i := by
  have nnn_lt := nnn.isLt
  exact decode_ofNat_of_lead d (by omega) (by omega) (h _ (fieldNNN_ofNat (by omega)))

theorem decode_ldI (nnn : Addr) : decode (BitVec.ofNat 16 (0xA000 + nnn.toNat)) = .ok (.ldI nnn) :=
  decode_a (d := 10) (by decide) nnn (by rintro op rfl; rfl)

/-- A word with leading nibble F decodes to what its low byte gives for its register (R52, R56). -/
theorem decode_fx {low : Nat} {i : Instr} (hlow : low < 256) (x : RegIx)
    (h : ∀ op, fieldX op = x → (fieldKK op).toNat = low → decodeF op = some i) :
    decode (BitVec.ofNat 16 (0xF000 + low + x.val * 0x100)) = .ok i := by
  refine decode_ofNat_of_lead 15 (by omega) (by omega) (h _ (fieldX_ofNat (by omega) (by omega)) ?_)
  rw [toNat_fieldKK_ofNat]
  omega

theorem decode_ldF (x : RegIx) : decode (BitVec.ofNat 16 (0xF029 + x.val * 0x100)) = .ok (.ldF x) :=
  decode_fx (low := 0x29) (by decide) x (by rintro op rfl low; simp only [decodeF, low])

theorem decode_ldB (x : RegIx) : decode (BitVec.ofNat 16 (0xF033 + x.val * 0x100)) = .ok (.ldB x) :=
  decode_fx (low := 0x33) (by decide) x (by rintro op rfl low; simp only [decodeF, low])

theorem decode_storeRegs (x : RegIx) : decode (BitVec.ofNat 16 (0xF055 + x.val * 0x100)) = .ok (.storeRegs x) :=
  decode_fx (low := 0x55) (by decide) x (by rintro op rfl low; simp only [decodeF, low])

theorem decode_loadRegs (x : RegIx) : decode (BitVec.ofNat 16 (0xF065 + x.val * 0x100)) = .ok (.loadRegs x) :=
  decode_fx (low := 0x65) (by decide) x (by rintro op rfl low; simp only [decodeF, low])

/-! ### Operands -/

theorem toNat_trunc8_of_lt {n : Nat} (h : n < 256) : (trunc8 n).toNat = n := Nat.mod_eq_of_lt h

@[simp] theorem State.length_lowRegs (s : State) (x : RegIx) : (s.lowRegs x).length = x.val + 1 := by
  simp [lowRegs]

/-- The `j`-th byte that `Fx55` stores is `V[j]` (R85). -/
theorem State.getElem_lowRegs (s : State) (x j : RegIx) (h : j.val < (s.lowRegs x).length) : (s.lowRegs x)[j.val] = s.getV j := by
  simp [lowRegs, getV]

/-! ### Stored bytes and frames -/

/-- The `j`-th byte stored from `a` is read back at `a + j`. -/
theorem State.readByte_writeBytes_add (s : State) (a : Nat) {j : Nat} {bs : List Byte} (h : j < bs.length) :
    (s.writeBytes a bs).readByte (a + j) = bs[j] := by
  simp [readByte_writeBytes, h]

/-- Storing bytes from `a` leaves every byte outside them. -/
theorem State.memoryKeptOutside_writeBytes (s : State) (a : Nat) (bs : List Byte) :
    MemoryKeptOutside a bs.length s (s.writeBytes a bs) := by
  intro b hb
  rw [readByte_writeBytes, dif_neg (by omega)]

theorem State.setI_keptBut (s : State) (w : Word) : KeptBut [.index] s (s.setI w) := by
  intro p hp
  cases p <;> simp [Kept] at hp ⊢

theorem State.loadLowRegs_keptBut (s : State) (x : RegIx) (a : Nat) : KeptBut [.regs] s (s.loadLowRegs x a) := by
  intro p hp
  cases p <;> simp [Kept] at hp ⊢

/-! ### Execution -/

theorem exec_ldI (nnn : Addr) (s : State) : exec (.ldI nnn) s = .next (s.setI (zextAddr nnn)) := rfl

theorem exec_ldF (x : RegIx) (s : State) : exec (.ldF x) s = .next (s.setI (BitVec.ofNat 16 ((s.getV x).toNat * 5))) := rfl

theorem exec_ldB (x : RegIx) (s : State) :
    exec (.ldB x) s = withRange s.i.toNat 3 s (.next (s.writeBytes s.i.toNat (decimalDigits (s.getV x)))) := rfl

theorem exec_storeRegs (x : RegIx) (s : State) :
    exec (.storeRegs x) s = withRange s.i.toNat (x.val + 1) s
      (.next ((s.writeBytes s.i.toNat (s.lowRegs x)).setI (BitVec.ofNat 16 (s.i.toNat + x.val + 1)))) := rfl

theorem exec_loadRegs (x : RegIx) (s : State) :
    exec (.loadRegs x) s = withRange s.i.toNat (x.val + 1) s
      (.next ((s.loadLowRegs x s.i.toNat).setI (BitVec.ofNat 16 (s.i.toNat + x.val + 1)))) := rfl

/-- The two outcomes of an access whose last byte is at `a + k` (R34, R35): it completes when that address is at most `0xFFF`, and
faults otherwise. -/
theorem withRange_next_or_fault (a k : Nat) (s t : State) :
    (a + k ≤ 0xFFF → withRange a (k + 1) s (.next t) = .next t) ∧
    (0xFFF < a + k →
      withRange a (k + 1) s (.next t) = .fault (.memoryOutOfBounds (s.pc - 2) (BitVec.ofNat 16 (max a 0x1000)))) :=
  ⟨fun inside => withRange_inside (.inr (by omega)) s _, fun outside => withRange_outside (by omega) (by omega) s _⟩

/-- The advance of `I` past an access inside memory does not wrap (R85, R86). -/
theorem toNat_advanced_index {a k : Nat} (h : a + k ≤ 0xFFF) : (BitVec.ofNat 16 (a + k + 1)).toNat = a + k + 1 :=
  Nat.mod_eq_of_lt (by omega)

end Sys2Proof.Machine

open Sys2Proof Sys2Proof.Machine

/-- Settles O27: each of the two is one write of `I`, and five times a byte fits in its 16 bits. -/
theorem indexLoads : Obligations.IndexLoads := by
  intro nnn x s
  have byte_lt := (s.getV x).isLt
  exact ⟨decode_ldI nnn, decode_ldF x, ⟨_, exec_ldI nnn s, toNat_zextAddr nnn, s.setI_keptBut _⟩,
    ⟨_, exec_ldF x s, Nat.mod_eq_of_lt (by omega), s.setI_keptBut _⟩⟩

/-- Settles O29: the three digits are stored from `I`, and each is less than 256. -/
theorem decimalDigitsStored : Obligations.DecimalDigitsStored := by
  intro x s
  have byte_lt := (s.getV x).isLt
  obtain ⟨completes, faults⟩ := withRange_next_or_fault s.i.toNat 2 s (s.writeBytes s.i.toNat (decimalDigits (s.getV x)))
  have digit : ∀ {j n : Nat} (hj : j < 3), n < 256 → (decimalDigits (s.getV x))[j]'hj = trunc8 n →
      ((s.writeBytes s.i.toNat (decimalDigits (s.getV x))).readByte (s.i.toNat + j)).toNat = n := by
    intro j n hj hn hdigit
    rw [s.readByte_writeBytes_add _ hj, hdigit, toNat_trunc8_of_lt hn]
  rw [exec_ldB]
  exact ⟨decode_ldB x, fun inside => ⟨_, completes inside, digit (j := 0) (by decide) (by omega) rfl,
    digit (by decide) (by omega) rfl, digit (by decide) (by omega) rfl,
    s.memoryKeptOutside_writeBytes _ (decimalDigits (s.getV x)), s.writeBytes_keptBut _ _⟩, faults⟩

/-- Settles O30: the bytes stored from `I` are `V[0..x]`, and the write of `I` after them leaves memory. -/
theorem registersStored : Obligations.RegistersStored := by
  intro x s
  obtain ⟨completes, faults⟩ := withRange_next_or_fault s.i.toNat x.val s
    ((s.writeBytes s.i.toNat (s.lowRegs x)).setI (BitVec.ofNat 16 (s.i.toNat + x.val + 1)))
  rw [exec_storeRegs]
  refine ⟨decode_storeRegs x, fun inside => ⟨_, completes inside, fun j hj => ?_, toNat_advanced_index inside, ?_,
    (s.writeBytes_keptBut _ _).trans (State.setI_keptBut _ _)⟩, faults⟩
  · have stored : j.val < (s.lowRegs x).length := (s.length_lowRegs x).symm ▸ Nat.lt_succ_of_le hj
    rw [State.readByte_setI, s.readByte_writeBytes_add _ stored, s.getElem_lowRegs]
  · intro b hb
    rw [State.readByte_setI]
    exact s.memoryKeptOutside_writeBytes _ (s.lowRegs x) b (by rwa [s.length_lowRegs])

/-- Settles O31: the registers are loaded from memory as it was, and the write of `I` after them leaves registers. -/
theorem registersLoaded : Obligations.RegistersLoaded := by
  intro x s
  obtain ⟨completes, faults⟩ := withRange_next_or_fault s.i.toNat x.val s
    ((s.loadLowRegs x s.i.toNat).setI (BitVec.ofNat 16 (s.i.toNat + x.val + 1)))
  rw [exec_loadRegs]
  refine ⟨decode_loadRegs x, fun inside => ⟨_, completes inside, fun j => ?_, toNat_advanced_index inside,
    (s.loadLowRegs_keptBut _ _).trans (State.setI_keptBut _ _)⟩, faults⟩
  rw [State.getV_setI, State.getV_loadLowRegs]

end

section
/-! PROOFS. Display (43_display.md R88, R91): what `CLS` leaves in the framebuffer, and the flag of a draw. -/

namespace Sys2Proof.Machine

/-! ### Pixels -/

theorem Grid.getElem_blank (r : Fin 32) (c : Fin 64) : Grid.blank[r.val][c.val] = false := by
  simp [Grid.blank]

/-- A draw turns a pixel off exactly when it was on and the sprite covers it (R87). -/
theorem drawSprite_turnsOff_iff (g : Grid) (rows : List Byte) (y0 x0 : Nat) (r : Fin 32) (c : Fin 64) :
    (g[r.val][c.val] = true ∧ (drawSprite g rows y0 x0)[r.val][c.val] = false) ↔
      (spriteCovers rows y0 x0 r.val c.val = true ∧ g[r.val][c.val] = true) := by
  rw [drawSprite_pixel]
  cases g[r.val][c.val] <;> simp

/-- The loop's `hit` is a comparison of the display before and after the draw (R91). -/
theorem spriteHits_iff_turnsOff (g : Grid) (rows : List Byte) (y0 x0 : Nat) :
    spriteHits g rows y0 x0 = true ↔
      ∃ (r : Fin 32) (c : Fin 64), g[r.val][c.val] = true ∧ (drawSprite g rows y0 x0)[r.val][c.val] = false := by
  simp only [spriteHits_iff, drawSprite_turnsOff_iff]

/-! ### Frames and execution -/

theorem State.setDisplay_keptBut (s : State) (g : Grid) (changed : Bool) : KeptBut [.display] s (s.setDisplay g changed) := by
  intro p hp
  cases p <;> simp [Kept] at hp ⊢

theorem exec_cls (s : State) : exec .cls s = .next (s.setDisplay Grid.blank true) := rfl

theorem exec_drw (x y : RegIx) (n : Nat) (s : State) :
    exec (.drw x y n) s = withRange s.i.toNat n s
      (.next
        ((s.setDisplay (drawSprite s.disp (s.readBytes s.i.toNat n) (s.spriteY y) (s.spriteX x))
            (s.changed || spriteTouches (s.readBytes s.i.toNat n) (s.spriteY y) (s.spriteX x))).setV VF
          (flagOf (spriteHits s.disp (s.readBytes s.i.toNat n) (s.spriteY y) (s.spriteX x))))) := rfl

/-- A draw that completes leaves the drawn display, and the loop's `hit` in `VF` (R89). -/
theorem disp_and_flag_of_exec_drw {x y : RegIx} {n : Nat} {s t : State} (h : exec (.drw x y n) s = .next t) :
    t.disp = drawSprite s.disp (s.readBytes s.i.toNat n) (s.spriteY y) (s.spriteX x) ∧
    t.getV VF = flagOf (spriteHits s.disp (s.readBytes s.i.toNat n) (s.spriteY y) (s.spriteX x)) := by
  rw [exec_drw] at h
  obtain ⟨-, drawn⟩ := withRange_next h
  cases drawn
  exact ⟨rfl, (State.getV_setV _ _ _ _).trans (if_pos rfl)⟩

end Sys2Proof.Machine

open Sys2Proof Sys2Proof.Machine

/-- Settles O35: `VF` is the flag of `hit`, and `hit` says that some pixel is on before the draw and off after it. -/
theorem drawReportsCollision : Obligations.DrawReportsCollision := by
  intro x y n s t h
  obtain ⟨hdisp, hflag⟩ := disp_and_flag_of_exec_drw h
  have hit_iff := spriteHits_iff_turnsOff s.disp (s.readBytes s.i.toNat n) (s.spriteY y) (s.spriteX x)
  rw [← hdisp] at hit_iff
  constructor
  · intro someOff
    exact hflag.trans (congrArg flagOf (hit_iff.2 someOff))
  · intro noneOff
    have noHit := Bool.eq_false_iff.2 fun hit => (hit_iff.1 hit).elim fun r ⟨c, off⟩ => noneOff r c off
    exact hflag.trans (congrArg flagOf noHit)

/-- Settles O33: `CLS` is one write of the display, with the blank grid and the flag set. -/
theorem clsClearsAndMarksChanged : Obligations.ClsClearsAndMarksChanged :=
  ⟨rfl, fun s => ⟨_, exec_cls s, Grid.getElem_blank, rfl, s.setDisplay_keptBut _ _⟩⟩

end

section
/-! PROOFS. Timer access and the key wait (44_keypad_timer.md R96, R98, R100, R101): the frames of the timer writes, and the tick of a
blocked `Fx0A`. -/

namespace Sys2Proof.Machine

/-! ### Timers -/

theorem decode_ldVxDT (x : RegIx) : decode (BitVec.ofNat 16 (0xF007 + x.val * 0x100)) = .ok (.ldVxDT x) :=
  decode_fx (low := 0x07) (by decide) x (by rintro op rfl low; simp only [decodeF, low])

theorem decode_ldDTVx (x : RegIx) : decode (BitVec.ofNat 16 (0xF015 + x.val * 0x100)) = .ok (.ldDTVx x) :=
  decode_fx (low := 0x15) (by decide) x (by rintro op rfl low; simp only [decodeF, low])

theorem decode_ldSTVx (x : RegIx) : decode (BitVec.ofNat 16 (0xF018 + x.val * 0x100)) = .ok (.ldSTVx x) :=
  decode_fx (low := 0x18) (by decide) x (by rintro op rfl low; simp only [decodeF, low])

theorem State.setDT_keptBut (s : State) (b : Byte) : KeptBut [.delay] s (s.setDT b) := by
  intro p hp
  cases p <;> simp [Kept] at hp ⊢

theorem State.setST_keptBut (s : State) (b : Byte) : KeptBut [.sound] s (s.setST b) := by
  intro p hp
  cases p <;> simp [Kept] at hp ⊢

/-- The beep sounds exactly while `ST` is not zero (R114). -/
theorem State.shouldBeep_iff (s : State) : s.shouldBeep = true ↔ s.st ≠ 0 := by
  rw [shouldBeep, decide_eq_true_iff, Nat.pos_iff_ne_zero, ne_eq, ne_eq, BitVec.toNat_eq]
  rfl

theorem exec_ldVxDT (x : RegIx) (s : State) : exec (.ldVxDT x) s = .next (s.setV x s.dt) := rfl

theorem exec_ldDTVx (x : RegIx) (s : State) : exec (.ldDTVx x) s = .next (s.setDT (s.getV x)) := rfl

theorem exec_ldSTVx (x : RegIx) (s : State) : exec (.ldSTVx x) s = .next (s.setST (s.getV x)) := rfl

/-! ### The key wait -/

/-- A press arms the latch and re-blocks, whatever was released (R98). -/
theorem exec_ldVxK_of_pressed {s : State} (x : RegIx) (h : ∃ k, Pressed s k) :
    exec (.ldVxK x) s = .next (s.setLatch true).rewind :=
  if_pos (s.pressSeen_iff.2 h)

/-- With neither a press nor a release the instruction re-blocks (R98). -/
theorem exec_ldVxK_of_no_edge {s : State} (x : RegIx) (noPress : ∀ k, ¬ Pressed s k) (noRelease : ∀ k, ¬ Released s k) :
    exec (.ldVxK x) s = .next s.rewind := by
  have unseen : ¬ s.pressSeen = true := fun h => (s.pressSeen_iff.1 h).elim noPress
  have noneReleased : s.lowestRelease = none := s.lowestRelease_none_iff.2 noRelease
  simp only [exec, execLdVxK, if_neg unseen, noneReleased]

/-- Re-blocking undoes the advance of `pc` (R48, R98). -/
theorem State.rewind_advance (s : State) : s.advance.rewind = s := by
  simp only [rewind, advance, setPc, BitVec.add_sub_cancel]

/-- The tick of `Fx0A` on a press: the latch is armed, then the keypad snapshot is taken. -/
theorem step_ldVxK_of_pressed {x : RegIx} {s : State} (hs : s.status = .running) (hf : fetchDecode s = .ok (.ldVxK x))
    (h : ∃ k, Pressed s k) : step s = .next (s.setLatch true).snapshotKeys := by
  have tick := step_of_exec_next hs hf (exec_ldVxK_of_pressed (s := s.advance) x h)
  have blocked : (s.advance.setLatch true).rewind = s.setLatch true := (s.setLatch true).rewind_advance
  rwa [blocked] at tick

/-- The tick of `Fx0A` with neither edge is the keypad snapshot alone. -/
theorem step_ldVxK_of_no_edge {x : RegIx} {s : State} (hs : s.status = .running) (hf : fetchDecode s = .ok (.ldVxK x))
    (noPress : ∀ k, ¬ Pressed s k) (noRelease : ∀ k, ¬ Released s k) : step s = .next s.snapshotKeys := by
  have tick := step_of_exec_next hs hf (exec_ldVxK_of_no_edge (s := s.advance) x noPress noRelease)
  rwa [s.rewind_advance] at tick

/-- After the snapshot no key has a release edge (R49). -/
theorem State.not_released_snapshotKeys (s : State) (k : Fin 16) : ¬ Released s.snapshotKeys k := by
  rintro ⟨wasDown, isUp⟩
  exact Bool.false_ne_true (isUp.symm.trans wasDown)

end Sys2Proof.Machine

open Sys2Proof Sys2Proof.Machine

/-- Settles O40: each of the three is one write, of a register or of a timer. -/
theorem timerAccess : Obligations.TimerAccess := by
  intro x s
  exact ⟨decode_ldVxDT x, decode_ldDTVx x, decode_ldSTVx x, exec_writesOnly_of_setV (exec_ldVxDT x s),
    ⟨_, exec_ldDTVx x s, rfl, s.setDT_keptBut _⟩,
    ⟨_, exec_ldSTVx x s, rfl, State.shouldBeep_iff _, s.setST_keptBut _⟩⟩

/-- Settles O42: the tick is the snapshot of the state before it, with the latch armed on a press. -/
theorem pressTakesPrecedenceOverRelease : Obligations.PressTakesPrecedenceOverRelease := by
  intro x s hs hf
  constructor
  · intro pressed
    exact ⟨_, step_ldVxK_of_pressed hs hf pressed, rfl, rfl, fun _ => rfl, rfl, State.not_released_snapshotKeys _⟩
  · intro noEdge
    exact ⟨_, step_ldVxK_of_no_edge hs hf (fun k => (noEdge k).1) (fun k => (noEdge k).2), rfl, rfl, fun _ => rfl⟩

end

section
/-! PROOFS. Host operations (60_exceptions.md R112, R114 to R118): the countdown of a timer, the write of one current key, and the queries. -/

namespace Sys2Proof.Machine

/-! ### Timers -/

/-- One countdown takes 1, and stays at 0 (R112). -/
theorem toNat_countDown (b : Byte) : (countDown b).toNat = b.toNat - 1 := by
  unfold countDown
  split
  case isTrue positive => exact BitVec.toNat_sub_of_le (BitVec.le_def.2 positive)
  case isFalse zero => omega

/-- `update_timers` is a write of `DT` and a write of `ST` (R112). -/
theorem State.updateTimers_eq (s : State) : s.updateTimers = (s.setDT (countDown s.dt)).setST (countDown s.st) := rfl

/-! ### Key events -/

theorem State.setKey_of_valid (s : State) {k : Int} (b : Bool) (h : 0 ≤ k ∧ k ≤ 15) :
    s.setKey k b = { s with keysCur := s.keysCur.set k.toNat b } := dif_pos h

/-- An index outside 0 to 15 is ignored (R115, R116). -/
theorem State.setKey_of_invalid (s : State) {k : Int} (b : Bool) (h : ¬ (0 ≤ k ∧ k ≤ 15)) : s.setKey k b = s := dif_neg h

/-- What a key reads after an event: the written value at that key's index, and the old one at every other index. -/
theorem State.keysCur_setKey (s : State) (k : Int) (b : Bool) (j : Fin 16) :
    (s.setKey k b).keysCur[j.val] = if (j.val : Int) = k then b else s.keysCur[j.val] := by
  have j_lt := j.isLt
  by_cases h : 0 ≤ k ∧ k ≤ 15
  · have sameIndex : k.toNat = j.val ↔ (j.val : Int) = k := by omega
    simp only [s.setKey_of_valid b h, Vector.getElem_set, sameIndex]
  · have otherIndex : (j.val : Int) ≠ k := by omega
    rw [s.setKey_of_invalid b h, if_neg otherIndex]

/-- A key event writes `keys_cur` alone: with the old one put back, the state is as before (R115, R116). -/
theorem State.setKey_restored (s : State) (k : Int) (b : Bool) : { s.setKey k b with keysCur := s.keysCur } = s := by
  by_cases h : 0 ≤ k ∧ k ≤ 15
  · rw [s.setKey_of_valid b h]
  · rw [s.setKey_of_invalid b h]

/-! ### Queries -/

/-- `has_changed` writes the flag alone: with the old one put back, the state is as before (R118). -/
theorem State.hasChanged_restored (s : State) : { s.hasChanged.2 with changed := s.changed } = s := rfl

end Sys2Proof.Machine

open Sys2Proof Sys2Proof.Machine

/-- Settles O49: each timer counts down once, and the two timer writes keep every other part. -/
theorem updateTimersCountsDown : Obligations.UpdateTimersCountsDown := by
  intro s
  refine ⟨toNat_countDown s.dt, toNat_countDown s.st, ?_⟩
  rw [s.updateTimers_eq]
  exact (s.setDT_keptBut _).trans (State.setST_keptBut _ _)

/-- Settles O51: both events are one write of `keys_cur`, of `true` and of `false`. -/
theorem keyEventsWriteOneCurrentKey : Obligations.KeyEventsWriteOneCurrentKey := by
  intro s k
  exact ⟨s.keysCur_setKey k true, s.keysCur_setKey k false, s.setKey_restored k true, s.setKey_restored k false,
    fun h => ⟨s.setKey_of_invalid true h, s.setKey_of_invalid false h⟩⟩

/-- Settles O52: the beep is the test `ST > 0`, and the flag of a second `has_changed` is the one the first has cleared. -/
theorem hostQueries : Obligations.HostQueries := by
  intro s
  have beeps : s.shouldBeep = true ↔ 0 < s.st.toNat := decide_eq_true_iff
  have cleared : s.hasChanged.2.changed = false := rfl
  exact ⟨beeps, rfl, rfl, rfl, rfl, cleared, cleared, s.hasChanged_restored⟩

end

section
/-! PROOFS. Encoding (30_encoding.md R50 to R54): the word of every instruction decodes to it, a word is rebuilt from its fields, and
the decoder against the opcode table. -/

namespace Sys2Proof.Machine

/-! ### Words by format, for the rows that have no decoding lemma yet -/

theorem decode_call (nnn : Addr) : decode (BitVec.ofNat 16 (0x2000 + nnn.toNat)) = .ok (.call nnn) :=
  decode_a (d := 2) (by decide) nnn (by rintro op rfl; rfl)

theorem decode_jpV0 (nnn : Addr) : decode (BitVec.ofNat 16 (0xB000 + nnn.toNat)) = .ok (.jpV0 nnn) :=
  decode_a (d := 11) (by decide) nnn (by rintro op rfl; rfl)

theorem decode_rnd (x : RegIx) (kk : Byte) :
    decode (BitVec.ofNat 16 (0xC000 + x.val * 0x100 + kk.toNat)) = .ok (.rnd x kk) :=
  decode_xk (d := 12) (by decide) x kk (by rintro op rfl rfl; rfl)

theorem decode_seReg (x y : RegIx) :
    decode (BitVec.ofNat 16 (0x5000 + x.val * 0x100 + y.val * 0x10)) = .ok (.seReg x y) :=
  decode_xyn (d := 5) (n := 0) (by decide) (by decide) x y (by rintro op rfl rfl nibble; exact if_pos nibble)

theorem decode_sneReg (x y : RegIx) :
    decode (BitVec.ofNat 16 (0x9000 + x.val * 0x100 + y.val * 0x10)) = .ok (.sneReg x y) :=
  decode_xyn (d := 9) (n := 0) (by decide) (by decide) x y (by rintro op rfl rfl nibble; exact if_pos nibble)

theorem decode_drw (x y : RegIx) {n : Nat} (hn : n < 16) :
    decode (BitVec.ofNat 16 (0xD000 + x.val * 0x100 + y.val * 0x10 + n)) = .ok (.drw x y n) := by
  rw [show 0xD000 + x.val * 0x100 + y.val * 0x10 + n = 13 * 0x1000 + n + x.val * 0x100 + y.val * 0x10 by omega]
  exact decode_xyn (d := 13) (by decide) hn x y (by rintro op rfl rfl rfl; rfl)

/-- A word with leading nibble 8 decodes to what its trailing nibble gives for its two registers (R52, R56). -/
theorem decode_8xy {n : Nat} {i : Instr} (hn : n < 16) (x y : RegIx)
    (h : ∀ op, fieldX op = x → fieldY op = y → fieldN op = n → decode8 op = some i) :
    decode (BitVec.ofNat 16 (0x8000 + n + x.val * 0x100 + y.val * 0x10)) = .ok i :=
  decode_xyn (d := 8) (by decide) hn x y h

theorem decode_orReg (x y : RegIx) :
    decode (BitVec.ofNat 16 (0x8001 + x.val * 0x100 + y.val * 0x10)) = .ok (.orReg x y) :=
  decode_8xy (n := 1) (by decide) x y (by rintro op rfl rfl nibble; simp only [decode8, nibble])

theorem decode_andReg (x y : RegIx) :
    decode (BitVec.ofNat 16 (0x8002 + x.val * 0x100 + y.val * 0x10)) = .ok (.andReg x y) :=
  decode_8xy (n := 2) (by decide) x y (by rintro op rfl rfl nibble; simp only [decode8, nibble])

theorem decode_xorReg (x y : RegIx) :
    decode (BitVec.ofNat 16 (0x8003 + x.val * 0x100 + y.val * 0x10)) = .ok (.xorReg x y) :=
  decode_8xy (n := 3) (by decide) x y (by rintro op rfl rfl nibble; simp only [decode8, nibble])

theorem decode_addReg (x y : RegIx) :
    decode (BitVec.ofNat 16 (0x8004 + x.val * 0x100 + y.val * 0x10)) = .ok (.addReg x y) :=
  decode_8xy (n := 4) (by decide) x y (by rintro op rfl rfl nibble; simp only [decode8, nibble])

theorem decode_sub (x y : RegIx) :
    decode (BitVec.ofNat 16 (0x8005 + x.val * 0x100 + y.val * 0x10)) = .ok (.sub x y) :=
  decode_8xy (n := 5) (by decide) x y (by rintro op rfl rfl nibble; simp only [decode8, nibble])

theorem decode_shr (x y : RegIx) :
    decode (BitVec.ofNat 16 (0x8006 + x.val * 0x100 + y.val * 0x10)) = .ok (.shr x y) :=
  decode_8xy (n := 6) (by decide) x y (by rintro op rfl rfl nibble; simp only [decode8, nibble])

theorem decode_subn (x y : RegIx) :
    decode (BitVec.ofNat 16 (0x8007 + x.val * 0x100 + y.val * 0x10)) = .ok (.subn x y) :=
  decode_8xy (n := 7) (by decide) x y (by rintro op rfl rfl nibble; simp only [decode8, nibble])

theorem decode_shl (x y : RegIx) :
    decode (BitVec.ofNat 16 (0x800E + x.val * 0x100 + y.val * 0x10)) = .ok (.shl x y) :=
  decode_8xy (n := 14) (by decide) x y (by rintro op rfl rfl nibble; simp only [decode8, nibble])

/-- A word with leading nibble E decodes to what its low byte gives for its register (R52, R56). -/
theorem decode_ex {low : Nat} {i : Instr} (hlow : low < 256) (x : RegIx)
    (h : ∀ op, fieldX op = x → (fieldKK op).toNat = low → decodeE op = some i) :
    decode (BitVec.ofNat 16 (0xE000 + low + x.val * 0x100)) = .ok i := by
  refine decode_ofNat_of_lead 14 (by omega) (by omega) (h _ (fieldX_ofNat (by omega) (by omega)) ?_)
  rw [toNat_fieldKK_ofNat]
  omega

theorem decode_skp (x : RegIx) : decode (BitVec.ofNat 16 (0xE09E + x.val * 0x100)) = .ok (.skp x) :=
  decode_ex (low := 0x9E) (by decide) x (by rintro op rfl low; simp only [decodeE, low])

theorem decode_sknp (x : RegIx) : decode (BitVec.ofNat 16 (0xE0A1 + x.val * 0x100)) = .ok (.sknp x) :=
  decode_ex (low := 0xA1) (by decide) x (by rintro op rfl low; simp only [decodeE, low])

theorem decode_ldVxK (x : RegIx) : decode (BitVec.ofNat 16 (0xF00A + x.val * 0x100)) = .ok (.ldVxK x) :=
  decode_fx (low := 0x0A) (by decide) x (by rintro op rfl low; simp only [decodeF, low])

theorem decode_addI (x : RegIx) : decode (BitVec.ofNat 16 (0xF01E + x.val * 0x100)) = .ok (.addI x) :=
  decode_fx (low := 0x1E) (by decide) x (by rintro op rfl low; simp only [decodeF, low])

/-! ### The word of an instruction decodes to it -/

/-- A word spelled in hex digits, with the fixed digits added up first, as the decoding lemmas write it. -/
theorem hexWord_eq_xyn (d x y n : Nat) : hexWord d x y n = BitVec.ofNat 16 (d * 0x1000 + n + x * 0x100 + y * 0x10) :=
  congrArg (BitVec.ofNat 16) (by omega)

/-- The same for a word whose two low digits are fixed. -/
theorem hexWord_eq_xlow (d x hi lo : Nat) : hexWord d x hi lo = BitVec.ofNat 16 (d * 0x1000 + (hi * 0x10 + lo) + x * 0x100) :=
  congrArg (BitVec.ofNat 16) (by omega)

theorem decode_encode {i : Instr} (h : i.wf = true) : decode (encode i) = .ok i := by
  cases i with
  | cls => rfl
  | ret => rfl
  | jp nnn => exact decode_jp nnn
  | call nnn => exact decode_call nnn
  | seByte x kk => exact decode_seByte x kk
  | sneByte x kk => exact decode_sneByte x kk
  | seReg x y => rw [encode, hexWord_eq_xyn]; exact decode_seReg x y
  | sneReg x y => rw [encode, hexWord_eq_xyn]; exact decode_sneReg x y
  | ldByte x kk => exact decode_ldByte x kk
  | addByte x kk => exact decode_addByte x kk
  | ldReg x y => rw [encode, hexWord_eq_xyn]; exact decode_ldReg x y
  | orReg x y => rw [encode, hexWord_eq_xyn]; exact decode_orReg x y
  | andReg x y => rw [encode, hexWord_eq_xyn]; exact decode_andReg x y
  | xorReg x y => rw [encode, hexWord_eq_xyn]; exact decode_xorReg x y
  | addReg x y => rw [encode, hexWord_eq_xyn]; exact decode_addReg x y
  | sub x y => rw [encode, hexWord_eq_xyn]; exact decode_sub x y
  | shr x y => rw [encode, hexWord_eq_xyn]; exact decode_shr x y
  | subn x y => rw [encode, hexWord_eq_xyn]; exact decode_subn x y
  | shl x y => rw [encode, hexWord_eq_xyn]; exact decode_shl x y
  | ldI nnn => exact decode_ldI nnn
  | jpV0 nnn => exact decode_jpV0 nnn
  | rnd x kk => exact decode_rnd x kk
  | drw x y n =>
    have hn : n < 16 := of_decide_eq_true h
    rw [encode, Nat.mod_eq_of_lt hn]
    exact decode_drw x y hn
  | skp x => rw [encode, hexWord_eq_xlow]; exact decode_skp x
  | sknp x => rw [encode, hexWord_eq_xlow]; exact decode_sknp x
  | ldVxDT x => rw [encode, hexWord_eq_xlow]; exact decode_ldVxDT x
  | ldVxK x => rw [encode, hexWord_eq_xlow]; exact decode_ldVxK x
  | ldDTVx x => rw [encode, hexWord_eq_xlow]; exact decode_ldDTVx x
  | ldSTVx x => rw [encode, hexWord_eq_xlow]; exact decode_ldSTVx x
  | addI x => rw [encode, hexWord_eq_xlow]; exact decode_addI x
  | ldF x => rw [encode, hexWord_eq_xlow]; exact decode_ldF x
  | ldB x => rw [encode, hexWord_eq_xlow]; exact decode_ldB x
  | storeRegs x => rw [encode, hexWord_eq_xlow]; exact decode_storeRegs x
  | loadRegs x => rw [encode, hexWord_eq_xlow]; exact decode_loadRegs x

/-! ### A word is rebuilt from its fields -/

theorem hexWord_fields {op : Word} {d n : Nat} (hd : fieldLead op = d) (hn : fieldN op = n) :
    hexWord d (fieldX op).val (fieldY op).val n = op := by
  have op_lt := op.isLt
  subst hd hn
  apply BitVec.eq_of_toNat_eq
  simp only [hexWord, fieldLead, fieldX, fieldY, fieldN, Fin.ofNat, BitVec.toNat_ofNat]
  omega

theorem hexWordXK_fields {op : Word} {d : Nat} (hd : fieldLead op = d) : hexWordXK d (fieldX op) (fieldKK op) = op := by
  have op_lt := op.isLt
  subst hd
  apply BitVec.eq_of_toNat_eq
  simp only [hexWordXK, fieldLead, fieldX, fieldKK, Fin.ofNat, BitVec.toNat_ofNat]
  omega

theorem hexWordA_fields {op : Word} {d : Nat} (hd : fieldLead op = d) : hexWordA d (fieldNNN op) = op := by
  have op_lt := op.isLt
  subst hd
  apply BitVec.eq_of_toNat_eq
  simp only [hexWordA, fieldLead, fieldNNN, BitVec.toNat_ofNat]
  omega

/-- A word whose low byte is fixed is rebuilt from its leading nibble, its register and that byte. -/
theorem hexWord_low {op : Word} {d hi lo : Nat} (hd : fieldLead op = d) (hlow : (fieldKK op).toNat = hi * 16 + lo) :
    hexWord d (fieldX op).val hi lo = op := by
  have word : hexWord d (fieldX op).val hi lo = hexWordXK d (fieldX op) (fieldKK op) :=
    congrArg (BitVec.ofNat 16) (by rw [hlow]; omega)
  exact word.trans (hexWordXK_fields hd)

theorem fieldN_lt (op : Word) : fieldN op < 16 := Nat.mod_lt _ (by decide)

/-! ### The decoder on each leading nibble drops no bit -/

theorem encode_of_decode0 {op : Word} {i : Instr} (h : decode0 op = some i) : i.wf = true ∧ encode i = op := by
  unfold decode0 at h
  split at h <;> cases h
  case h_1 word => exact ⟨rfl, BitVec.eq_of_toNat_eq word.symm⟩
  case h_2 word => exact ⟨rfl, BitVec.eq_of_toNat_eq word.symm⟩

theorem encode_of_decode8 {op : Word} {i : Instr} (hd : fieldLead op = 8) (h : decode8 op = some i) :
    i.wf = true ∧ encode i = op := by
  unfold decode8 at h
  split at h <;> cases h <;> exact ⟨rfl, hexWord_fields hd ‹_›⟩

theorem encode_of_decodeE {op : Word} {i : Instr} (hd : fieldLead op = 14) (h : decodeE op = some i) :
    i.wf = true ∧ encode i = op := by
  unfold decodeE at h
  split at h <;> cases h <;> exact ⟨rfl, hexWord_low hd ‹_›⟩

theorem encode_of_decodeF {op : Word} {i : Instr} (hd : fieldLead op = 15) (h : decodeF op = some i) :
    i.wf = true ∧ encode i = op := by
  unfold decodeF at h
  split at h <;> cases h <;> exact ⟨rfl, hexWord_low hd ‹_›⟩

theorem encode_of_decodeLead {op : Word} {d : Nat} {i : Instr} (hd : fieldLead op = d) (h : decodeLead d op = some i) :
    i.wf = true ∧ encode i = op := by
  match d, hd, h with
  | 0x0, _, h => exact encode_of_decode0 h
  | 0x1, hd, h => cases h; exact ⟨rfl, hexWordA_fields hd⟩
  | 0x2, hd, h => cases h; exact ⟨rfl, hexWordA_fields hd⟩
  | 0x3, hd, h => cases h; exact ⟨rfl, hexWordXK_fields hd⟩
  | 0x4, hd, h => cases h; exact ⟨rfl, hexWordXK_fields hd⟩
  | 0x5, hd, h =>
    obtain ⟨nibble, decoded⟩ := Option.ite_none_right_eq_some.1 h
    cases decoded
    exact ⟨rfl, hexWord_fields hd nibble⟩
  | 0x6, hd, h => cases h; exact ⟨rfl, hexWordXK_fields hd⟩
  | 0x7, hd, h => cases h; exact ⟨rfl, hexWordXK_fields hd⟩
  | 0x8, hd, h => exact encode_of_decode8 hd h
  | 0x9, hd, h =>
    obtain ⟨nibble, decoded⟩ := Option.ite_none_right_eq_some.1 h
    cases decoded
    exact ⟨rfl, hexWord_fields hd nibble⟩
  | 0xA, hd, h => cases h; exact ⟨rfl, hexWordA_fields hd⟩
  | 0xB, hd, h => cases h; exact ⟨rfl, hexWordA_fields hd⟩
  | 0xC, hd, h => cases h; exact ⟨rfl, hexWordXK_fields hd⟩
  | 0xD, hd, h =>
    cases h
    exact ⟨decide_eq_true (fieldN_lt op), hexWord_fields hd (Nat.mod_eq_of_lt (fieldN_lt op)).symm⟩
  | 0xE, hd, h => exact encode_of_decodeE hd h
  | 0xF, hd, h => exact encode_of_decodeF hd h
  | _ + 16, _, h => cases h

theorem encode_of_decode {op : Word} {i : Instr} (h : decode op = .ok i) : i.wf = true ∧ encode i = op :=
  encode_of_decodeLead rfl ((decode_ok_iff op i).1 h)

end Sys2Proof.Machine

open Sys2Proof Sys2Proof.Machine

/-- Settles O2: each word is spelled as its row's decoding lemma spells it, and its two bytes carry the word. -/
theorem decodeOfEncode : Obligations.DecodeOfEncode := by
  intro i rest hwf
  have decoded := decode_encode hwf
  refine ⟨decoded, ?_⟩
  rw [encodeBytes, decodeBytes_bytesOfWord, decoded]
  rfl

/-- Settles O3: on each leading nibble, the fields an instruction carries and the digits its row fixes make up the word. -/
theorem encodeOfDecode : Obligations.EncodeOfDecode := fun _ _ => encode_of_decode

end

section
/-! PROOFS. What an instruction can do (10_state.md sections 2 to 6, 60_exceptions.md R103): the outcomes of the instructions that depend
on the state, the fault table, and the frames of parts and of registers. -/

namespace Sys2Proof.Machine

/-! ### Outcomes of the instructions that depend on the state -/

theorem exec_ret_next {s t : State} (h : exec .ret s = .next t) : s.sp ≠ 0 ∧ s.popReturn = some t := by
  by_cases hzero : s.sp = 0
  · rw [exec_ret_of_sp_eq_zero hzero] at h
    cases h
  · refine ⟨hzero, ?_⟩
    simp only [exec, execRet, if_neg hzero] at h
    cases popped : s.popReturn with
    | some u =>
      rw [popped] at h
      cases h
      rfl
    | none =>
      rw [popped] at h
      cases h

theorem exec_call_of_sp_eq_15 {s : State} (nnn : Addr) (h : s.sp = 15) :
    exec (.call nnn) s = .fault (.stackOverflow (s.pc - 2) (nnn.setWidth 16)) :=
  if_pos h

/-- Below 15 frames a call is one push (R61). -/
theorem exec_call_of_pushCall {s t : State} {nnn : Addr} (hsp : s.sp ≠ 15) (h : s.pushCall (zextAddr nnn) = some t) :
    exec (.call nnn) s = .next t := by
  simp only [exec, execCall, if_neg hsp, h]

theorem exec_call_next {nnn : Addr} {s t : State} (h : exec (.call nnn) s = .next t) :
    s.sp ≠ 15 ∧ s.pushCall (zextAddr nnn) = some t := by
  by_cases full : s.sp = 15
  · rw [exec_call_of_sp_eq_15 nnn full] at h
    cases h
  · refine ⟨full, ?_⟩
    simp only [exec, execCall, if_neg full] at h
    cases pushed : s.pushCall (zextAddr nnn) with
    | some u =>
      rw [pushed] at h
      cases h
      rfl
    | none =>
      rw [pushed] at h
      cases h

theorem exec_skp_of_key {s : State} {x : RegIx} (h : (s.getV x).toNat < 16) :
    exec (.skp x) s = .next (s.skipIf s.keysCur[(s.getV x).toNat]) := by
  simp only [exec, execSkp, s.keyIndex_of_lt x h]

theorem exec_sknp_of_key {s : State} {x : RegIx} (h : (s.getV x).toNat < 16) :
    exec (.sknp x) s = .next (s.skipIf (!s.keysCur[(s.getV x).toNat])) := by
  simp only [exec, execSknp, s.keyIndex_of_lt x h]

theorem exec_skp_of_no_key {s : State} {x : RegIx} (h : 15 < (s.getV x).toNat) :
    exec (.skp x) s = .fault (.keyIndexOutOfRange (s.pc - 2) ((s.getV x).setWidth 16)) := by
  simp only [exec, execSkp, s.keyIndex_of_ge x h]
  rfl

theorem exec_sknp_of_no_key {s : State} {x : RegIx} (h : 15 < (s.getV x).toNat) :
    exec (.sknp x) s = .fault (.keyIndexOutOfRange (s.pc - 2) ((s.getV x).setWidth 16)) := by
  simp only [exec, execSknp, s.keyIndex_of_ge x h]
  rfl

/-- A key test that completes is a skip. -/
theorem exec_skp_next {x : RegIx} {s t : State} (h : exec (.skp x) s = .next t) : ∃ c, t = s.skipIf c := by
  rcases Nat.lt_or_ge (s.getV x).toNat 16 with key | noKey
  · rw [exec_skp_of_key key] at h
    cases h
    exact ⟨_, rfl⟩
  · rw [exec_skp_of_no_key noKey] at h
    cases h

theorem exec_sknp_next {x : RegIx} {s t : State} (h : exec (.sknp x) s = .next t) : ∃ c, t = s.skipIf c := by
  rcases Nat.lt_or_ge (s.getV x).toNat 16 with key | noKey
  · rw [exec_sknp_of_key key] at h
    cases h
    exact ⟨_, rfl⟩
  · rw [exec_sknp_of_no_key noKey] at h
    cases h

theorem exec_addI_of_fits {s : State} {x : RegIx} (h : s.i.toNat + (s.getV x).toNat ≤ 0xFFFF) :
    exec (.addI x) s = .next (s.setI (BitVec.ofNat 16 (s.i.toNat + (s.getV x).toNat))) :=
  if_neg (Nat.not_lt.2 h)

theorem exec_addI_of_overflow {s : State} {x : RegIx} (h : 0xFFFF < s.i.toNat + (s.getV x).toNat) :
    exec (.addI x) s = .fault (.indexOverflow (s.pc - 2) s.i) :=
  if_pos h

theorem exec_addI_next {x : RegIx} {s t : State} (h : exec (.addI x) s = .next t) : ∃ w, t = s.setI w := by
  rcases Nat.lt_or_ge 0xFFFF (s.i.toNat + (s.getV x).toNat) with overflow | fits
  · rw [exec_addI_of_overflow overflow] at h
    cases h
  · rw [exec_addI_of_fits fits] at h
    cases h
    exact ⟨_, rfl⟩

/-- The key wait always completes: it re-blocks, with the latch armed or as it was, or it writes a key's number and clears the latch
(R97 to R99). -/
theorem exec_ldVxK_cases (x : RegIx) (s : State) :
    exec (.ldVxK x) s = .next (s.setLatch true).rewind ∨ exec (.ldVxK x) s = .next s.rewind ∨
      ∃ k : Fin 16, exec (.ldVxK x) s = .next ((s.setV x (trunc8 k.val)).setLatch false) := by
  simp only [exec, execLdVxK]
  split
  · exact .inl rfl
  · split
    · split
      · exact .inr (.inr ⟨_, rfl⟩)
      · exact .inr (.inl rfl)
    · exact .inr (.inl rfl)

/-! ### The fault table -/

/-- The outcome is the tabled fault, or there is none and the instruction completes. -/
def FaultsAsTabled (o : Host.Outcome State Fault Refusal) (tabled : Option Fault) : Prop :=
  match tabled with
  | some f => o = .fault f
  | none => ∃ t, o = .next t

theorem FaultsAsTabled.fault_iff {o : Host.Outcome State Fault Refusal} {tabled : Option Fault} (h : FaultsAsTabled o tabled)
    (f : Fault) : o = .fault f ↔ tabled = some f := by
  cases tabled with
  | some g =>
    have faulted : o = .fault g := h
    simp [faulted]
  | none =>
    obtain ⟨t, completed⟩ := h
    simp [completed]

/-- A condition that picks the fault or the completion picks the row of the table. -/
theorem FaultsAsTabled.of_ite {o : Host.Outcome State Fault Refusal} {c : Prop} [Decidable c] {f : Fault}
    (faults : c → o = .fault f) (completes : ¬ c → ∃ t, o = .next t) : FaultsAsTabled o (if c then some f else none) := by
  split
  · exact faults ‹_›
  · exact completes ‹_›

/-- An access at `I` whose bytes lie in memory completes; else it raises the range fault (R34, R35). -/
theorem withRange_faultsAsTabled (n : Nat) (s t : State) :
    FaultsAsTabled (withRange s.i.toNat n s (.next t)) (rangeFault s n) := by
  refine FaultsAsTabled.of_ite (fun outside => ?_) (fun inside => ?_)
  · exact withRange_outside (by omega) (by omega) s _
  · exact ⟨t, withRange_inside (by omega) s _⟩

/-- With a legal `sp` every instruction faults exactly as its row says (R103, R106). -/
theorem exec_faultsAsTabled (i : Instr) {s : State} (hsp : s.sp.toNat ≤ 15) : FaultsAsTabled (exec i s) (i.faultIn s) := by
  cases i with
  | ret =>
    refine FaultsAsTabled.of_ite exec_ret_of_sp_eq_zero fun nonzero => ?_
    exact ⟨_, exec_ret_of_popReturn nonzero ((s.popReturn_some_iff _).2 ⟨by omega, rfl⟩)⟩
  | call nnn =>
    refine FaultsAsTabled.of_ite (exec_call_of_sp_eq_15 nnn) fun notFull => ?_
    have room : s.sp.toNat + 1 < 16 := by
      have : s.sp.toNat ≠ 15 := fun full => notFull (BitVec.eq_of_toNat_eq full)
      omega
    exact ⟨_, exec_call_of_pushCall notFull ((s.pushCall_some_iff _ _).2 ⟨room, rfl⟩)⟩
  | drw x y n => exact withRange_faultsAsTabled n s _
  | skp x => exact FaultsAsTabled.of_ite exec_skp_of_no_key fun key => ⟨_, exec_skp_of_key (by omega)⟩
  | sknp x => exact FaultsAsTabled.of_ite exec_sknp_of_no_key fun key => ⟨_, exec_sknp_of_key (by omega)⟩
  | addI x => exact FaultsAsTabled.of_ite exec_addI_of_overflow fun fits => ⟨_, exec_addI_of_fits (by omega)⟩
  | ldB x => exact withRange_faultsAsTabled 3 s _
  | storeRegs x => exact withRange_faultsAsTabled (x.val + 1) s _
  | loadRegs x => exact withRange_faultsAsTabled (x.val + 1) s _
  | ldVxK x =>
    rcases exec_ldVxK_cases x s with completed | completed | ⟨k, completed⟩
    · exact ⟨_, completed⟩
    · exact ⟨_, completed⟩
    · exact ⟨_, completed⟩
  | _ => exact ⟨_, rfl⟩

/-- A fault that a condition picks is recorded as it is written. -/
theorem record_of_ite {c : Prop} [Decidable c] {f g : Fault} {r : FaultRecord} {w : Word} (hrecord : f.record = some r)
    (horigin : r.origin = some w) (h : (if c then some f else none) = some g) :
    ∃ r : FaultRecord, g.record = some r ∧ r.origin = some w := by
  obtain ⟨-, picked⟩ := Option.ite_none_right_eq_some.1 h
  cases picked
  exact ⟨r, hrecord, horigin⟩

/-- Every fault of the table has a record, with the address of the running instruction (R104). -/
theorem faultIn_record {i : Instr} {s : State} {f : Fault} (h : i.faultIn s = some f) :
    ∃ r : FaultRecord, f.record = some r ∧ r.origin = some (s.pc - 2) := by
  cases i with
  | ret => exact record_of_ite rfl rfl h
  | call nnn => exact record_of_ite rfl rfl h
  | drw x y n => exact record_of_ite rfl rfl h
  | skp x | sknp x => exact record_of_ite rfl rfl h
  | addI x => exact record_of_ite rfl rfl h
  | ldB x | storeRegs x | loadRegs x => exact record_of_ite rfl rfl h
  | _ => cases h

/-! ### Frames of the parts -/

/-- The flagged write is two register writes (R10). -/
theorem State.setFlagged_keptBut (s : State) (x : RegIx) (b f : Byte) : KeptBut [.regs] s (s.setFlagged x b f) :=
  ((s.setV_keptBut x b).trans (State.setV_keptBut _ VF f)).mono (by decide)

theorem State.draw_keptBut (s : State) : KeptBut [.draws] s s.draw.2 := by
  intro p hp
  cases p <;> simp [Kept] at hp ⊢

theorem State.setLatch_keptBut (s : State) (b : Bool) : KeptBut [.latch] s (s.setLatch b) := by
  intro p hp
  cases p <;> simp [Kept] at hp ⊢

/-- Pushing a frame writes `pc` and the stack only (R61). -/
theorem State.pushCall_keptBut {s t : State} {w : Word} (h : s.pushCall w = some t) : KeptBut [.pc, .stack] s t := by
  obtain ⟨-, rfl⟩ := (s.pushCall_some_iff t w).1 h
  intro p hp
  cases p <;> simp [Kept, State.getV, State.readByte] at hp ⊢

/-- An instruction that completes keeps every part its rules do not name. -/
theorem exec_keptBut {i : Instr} {s t : State} (h : exec i s = .next t) : KeptBut i.writes s t := by
  cases i with
  | cls => cases h; exact s.setDisplay_keptBut _ _
  | ret => exact State.popReturn_keptBut (exec_ret_next h).2
  | call nnn => exact State.pushCall_keptBut (exec_call_next h).2
  | jp nnn | jpV0 nnn => cases h; exact s.setPc_keptBut _
  | seByte x kk | sneByte x kk => cases h; exact s.skipIf_keptBut _
  | seReg x y | sneReg x y => cases h; exact s.skipIf_keptBut _
  | skp x => obtain ⟨c, rfl⟩ := exec_skp_next h; exact s.skipIf_keptBut c
  | sknp x => obtain ⟨c, rfl⟩ := exec_sknp_next h; exact s.skipIf_keptBut c
  | ldByte x kk | addByte x kk => cases h; exact s.setV_keptBut _ _
  | ldReg x y => cases h; exact s.setV_keptBut _ _
  | ldVxDT x => cases h; exact s.setV_keptBut _ _
  | orReg x y | andReg x y | xorReg x y | addReg x y | sub x y | shr x y | subn x y | shl x y =>
    cases h; exact s.setFlagged_keptBut _ _ _
  | rnd x kk => cases h; exact (s.draw_keptBut.trans (State.setV_keptBut _ _ _)).mono (by simp [Instr.writes])
  | drw x y n =>
    obtain ⟨-, drawn⟩ := withRange_next h
    cases drawn
    exact ((s.setDisplay_keptBut _ _).trans (State.setV_keptBut _ _ _)).mono (by simp [Instr.writes])
  | ldVxK x =>
    rcases exec_ldVxK_cases x s with done | done | ⟨k, done⟩ <;> rw [done] at h <;> cases h
    · exact ((s.setLatch_keptBut _).trans (State.setPc_keptBut _ _)).mono (by simp [Instr.writes])
    · exact (s.setPc_keptBut _).mono (by simp [Instr.writes])
    · exact ((s.setV_keptBut _ _).trans (State.setLatch_keptBut _ _)).mono (by simp [Instr.writes])
  | ldDTVx x => cases h; exact s.setDT_keptBut _
  | ldSTVx x => cases h; exact s.setST_keptBut _
  | ldI nnn => cases h; exact s.setI_keptBut _
  | ldF x => cases h; exact s.setI_keptBut _
  | addI x => obtain ⟨w, rfl⟩ := exec_addI_next h; exact s.setI_keptBut w
  | ldB x =>
    obtain ⟨-, stored⟩ := withRange_next h
    cases stored
    exact s.writeBytes_keptBut _ _
  | storeRegs x =>
    obtain ⟨-, stored⟩ := withRange_next h
    cases stored
    exact (s.writeBytes_keptBut _ _).trans (State.setI_keptBut _ _)
  | loadRegs x =>
    obtain ⟨-, loaded⟩ := withRange_next h
    cases loaded
    exact (s.loadLowRegs_keptBut _ _).trans (State.setI_keptBut _ _)

/-! ### Frames of the registers -/

theorem State.getV_setV_of_other (s : State) {r x : RegIx} (b : Byte) (h : (r == x) = false) : (s.setV x b).getV r = s.getV r := by
  rw [State.getV_setV, if_neg (ne_of_beq_false h)]

theorem State.getV_setFlagged_of_other (s : State) {r x : RegIx} (b f : Byte) (h : (r == x || r == VF) = false) :
    (s.setFlagged x b f).getV r = s.getV r := by
  obtain ⟨notX, notVF⟩ := Bool.or_eq_false_iff.1 h
  exact (State.getV_setV_of_other _ f notVF).trans (s.getV_setV_of_other b notX)

/-- An instruction that completes keeps every register its rules do not name: where it writes registers at all, by the read after
its write; elsewhere by its frame. -/
theorem exec_keeps_getV {i : Instr} {s t : State} {r : RegIx} (h : exec i s = .next t) (hr : i.writesReg r = false) :
    t.getV r = s.getV r := by
  have frame := exec_keptBut h
  cases i with
  | ldByte x kk | addByte x kk => cases h; exact s.getV_setV_of_other _ hr
  | ldReg x y => cases h; exact s.getV_setV_of_other _ hr
  | ldVxDT x => cases h; exact s.getV_setV_of_other _ hr
  | orReg x y | andReg x y | xorReg x y | addReg x y | sub x y | shr x y | subn x y | shl x y =>
    cases h; exact s.getV_setFlagged_of_other _ _ hr
  | rnd x kk => cases h; exact State.getV_setV_of_other _ _ hr
  | drw x y n =>
    obtain ⟨-, drawn⟩ := withRange_next h
    cases drawn
    rw [State.getV_setV_of_other _ _ hr, State.getV_setDisplay]
  | ldVxK x =>
    rcases exec_ldVxK_cases x s with done | done | ⟨k, done⟩ <;> rw [done] at h <;> cases h
    · rfl
    · rfl
    · exact s.getV_setV_of_other _ hr
  | loadRegs x =>
    obtain ⟨-, loaded⟩ := withRange_next h
    cases loaded
    rw [State.getV_setI, State.getV_loadLowRegs, if_neg (of_decide_eq_false hr)]
  | _ => exact frame .regs (by simp [Instr.writes]) r

end Sys2Proof.Machine

open Sys2Proof Sys2Proof.Machine

/-- Settles O12: each row of the fault table is its instruction's own condition. -/
theorem instructionsFaultExactlyAsTabled : Obligations.InstructionsFaultExactlyAsTabled :=
  fun i _ hsp => exec_faultsAsTabled i hsp

/-- Settles O45: each instruction is a few updates, and its frame is theirs one after the other. -/
theorem instructionsWriteOnlyTheirParts : Obligations.InstructionsWriteOnlyTheirParts :=
  fun _ _ _ => exec_keptBut

/-- Settles O46: the registers written are read back, and every other one is kept. -/
theorem instructionsWriteOnlyTheirRegisters : Obligations.InstructionsWriteOnlyTheirRegisters :=
  fun _ _ _ h _ => exec_keeps_getV h

end

section
/-! PROOFS. The tick and the invariant (30_encoding.md R46 to R49, 60_exceptions.md R102 to R107, 10_state.md R18 to R20, R29): what a tick
does, and that every step and every operation of the interface keep `Inv`. -/

namespace Sys2Proof.Machine

/-! ### The tick -/

/-- A running block runs the instruction it fetched, and ends the tick (R46). -/
theorem step_of_fetchDecode_ok {i : Instr} {s : State} (hs : s.status = .running) (hf : fetchDecode s = .ok i) :
    step s = endTick (exec i s.advance) := by
  simp only [step, hs, hf]

theorem step_of_faulted {s : State} {r : FaultRecord} (h : s.status = .faulted r) : step s = .fault (.halted r) :=
  (step_fault_iff s _).2 (.inl ⟨r, h, rfl⟩)

theorem State.tick_of_next {s t : State} (residue : State) (h : step s = .next t) : s.tick residue = t := by
  simp only [tick, h]

theorem State.tick_of_record {s : State} {f : Fault} {r : FaultRecord} (residue : State) (h : step s = .fault f)
    (hr : f.record = some r) : s.tick residue = s.enterFaulted residue r := by
  simp only [tick, h, hr]

/-- A fault without a record is a stop that `tick` does not take (R107). -/
theorem State.tick_of_no_record {s : State} {f : Fault} (residue : State) (h : step s = .fault f) (hr : f.record = none) :
    s.tick residue = s := by
  simp only [tick, h, hr]

theorem State.tick_of_refused {s : State} {r : Refusal} (residue : State) (h : step s = .refused r) : s.tick residue = s := by
  simp only [tick, h]

/-- A completed tick, as the instruction it ran: `pc` lay where a word can be fetched, and what no instruction writes is kept. -/
theorem step_next_frame {s t : State} (h : step s = .next t) :
    s.status = .running ∧ ∃ i u, s.pc.toNat ≤ 0xFFE ∧ exec i s.advance = .next u ∧ t = u.snapshotKeys ∧ Kept .host s u := by
  obtain ⟨running, i, u, fetched, executed, rfl⟩ := (step_next_iff s t).1 h
  refine ⟨running, i, u, ((fetchDecode_ok_iff s i).1 fetched).1, executed, rfl, ?_⟩
  exact exec_keptBut executed .host (by cases i <;> simp [Instr.writes])

/-- A running block's fault, with a legal `sp`, is one that is recorded with the address of the fetch (R104). -/
theorem step_fault_record {s : State} {f : Fault} (hs : s.status = .running) (hsp : s.sp.toNat ≤ 15) (h : step s = .fault f) :
    ∃ r : FaultRecord, f.record = some r ∧ r.origin = some s.pc := by
  rcases (step_fault_iff s f).1 h with ⟨r, faulted, -⟩ | ⟨-, fetch | ⟨i, -, executed⟩⟩
  · exact absurd (hs.symm.trans faulted) (by simp)
  · rcases (fetchDecode_error_iff s f).1 fetch with ⟨-, rfl⟩ | ⟨-, -, rfl⟩
    · exact ⟨_, rfl, rfl⟩
    · exact ⟨_, rfl, rfl⟩
  · obtain ⟨r, recorded, origin⟩ := faultIn_record (((exec_faultsAsTabled i (s := s.advance) hsp).fault_iff f).1 executed)
    rw [State.advance_pc, BitVec.add_sub_cancel] at origin
    exact ⟨r, recorded, origin⟩

/-! ### The form of the data -/

/-- What `dataWf` says: canonical memory, and `rom_image` present exactly where it is retained, within its size (R29). -/
theorem State.dataWf_iff (s : State) :
    s.dataWf = true ↔ Memory.wf s.cfg.font s.mem = true ∧
      (∀ bytes, s.romImage = some bytes → s.cfg.resetRetainsRom = true ∧ bytes.length ≤ 0xE00) ∧
      (s.romImage = none → s.cfg.resetRetainsRom = false) := by
  unfold dataWf
  cases s.romImage <;> simp

/-- With the parameters and `rom_image` kept, only the memory's form is left to show. -/
theorem State.dataWf_of_kept {s t : State} (h : s.dataWf = true) (hcfg : t.cfg = s.cfg) (hrom : t.romImage = s.romImage)
    (hmem : Memory.wf s.cfg.font t.mem = true) : t.dataWf = true := by
  rw [State.dataWf_iff] at h ⊢
  rw [hcfg, hrom]
  exact ⟨hmem, h.2⟩

/-- The stores of an instruction lie inside memory, so its canonical form is kept (R35). -/
theorem exec_memory_wf {i : Instr} {s t : State} (h : exec i s = .next t) (hm : Memory.wf s.cfg.font s.mem = true) :
    Memory.wf s.cfg.font t.mem = true := by
  cases i with
  | ldB x =>
    obtain ⟨inside, stored⟩ := withRange_next h
    cases stored
    exact State.wf_writeBytes (by simp only [decimalDigits, List.length_cons, List.length_nil]; omega) hm
  | storeRegs x =>
    obtain ⟨inside, stored⟩ := withRange_next h
    cases stored
    exact State.wf_writeBytes (by rw [State.length_lowRegs]; omega) hm
  | ret =>
    obtain ⟨-, rfl⟩ := (s.popReturn_some_iff t).1 (exec_ret_next h).2
    exact hm
  | call nnn =>
    obtain ⟨-, rfl⟩ := (s.pushCall_some_iff t _).1 (exec_call_next h).2
    exact hm
  | skp x => obtain ⟨c, rfl⟩ := exec_skp_next h; exact hm
  | sknp x => obtain ⟨c, rfl⟩ := exec_sknp_next h; exact hm
  | addI x => obtain ⟨w, rfl⟩ := exec_addI_next h; exact hm
  | drw x y n => obtain ⟨-, drawn⟩ := withRange_next h; cases drawn; rwa [State.setV_mem, State.setDisplay_mem]
  | loadRegs x => obtain ⟨-, loaded⟩ := withRange_next h; cases loaded; rwa [State.setI_mem, State.loadLowRegs_mem]
  | ldVxK x =>
    rcases exec_ldVxK_cases x s with done | done | ⟨k, done⟩ <;> rw [done] at h <;> cases h <;> exact hm
  | _ => cases h; exact hm

/-! ### The control state -/

theorem controlOk_of_kept {s t : State} (hs : ControlOk s) (hstack : Kept .stack s t) (hpc : t.pc.toNat ≤ 0x10FE) : ControlOk t := by
  obtain ⟨sp_eq, stack_eq⟩ := hstack
  exact ⟨sp_eq ▸ hs.sp_le, hpc, stack_eq ▸ hs.stack_le, stack_eq ▸ hs.stack_zero⟩

/-- Two bytes further, an address that a word was fetched from does not wrap (R18). -/
theorem toNat_add_two {w : Word} (h : w.toNat ≤ 0x1000) : (w + 2).toNat = w.toNat + 2 := by
  rw [BitVec.toNat_add]
  exact Nat.mod_eq_of_lt (by simp; omega)

theorem State.skipIf_pc_le (s : State) (c : Bool) (h : s.pc.toNat ≤ 0x1000) : (s.skipIf c).pc.toNat ≤ 0x10FE := by
  rw [State.skipIf_pc]
  split
  · rw [toNat_add_two h]; omega
  · omega

/-- The highest `pc` of all is that of `Bnnn`: `0xFFF + 0xFF` (R18, R66). -/
theorem toNat_zextAddr_add_zextByte (nnn : Addr) (b : Byte) : (zextAddr nnn + zextByte b).toNat = nnn.toNat + b.toNat := by
  have nnn_lt := nnn.isLt
  have b_lt := b.isLt
  simp only [zextByte, BitVec.toNat_add, toNat_zextAddr, BitVec.toNat_setWidth]
  omega

theorem exec_pc_le {i : Instr} {s t : State} (h : exec i s = .next t) (lo : 2 ≤ s.pc.toNat) (hi : s.pc.toNat ≤ 0x1000)
    (hstack : ∀ j : Fin 16, s.stack[j.val].toNat ≤ 0x1000) : t.pc.toNat ≤ 0x10FE := by
  have frame := exec_keptBut h
  cases i with
  | ret =>
    obtain ⟨inside, rfl⟩ := (s.popReturn_some_iff t).1 (exec_ret_next h).2
    exact (hstack ⟨s.sp.toNat, inside⟩).trans (by decide)
  | jp nnn =>
    cases h
    rw [State.setPc_pc, toNat_zextAddr]
    omega
  | call nnn =>
    obtain ⟨-, rfl⟩ := (s.pushCall_some_iff t _).1 (exec_call_next h).2
    rw [toNat_zextAddr]
    omega
  | jpV0 nnn =>
    cases h
    rw [State.setPc_pc, toNat_zextAddr_add_zextByte]
    omega
  | seByte x kk | sneByte x kk => cases h; exact s.skipIf_pc_le _ hi
  | seReg x y | sneReg x y => cases h; exact s.skipIf_pc_le _ hi
  | skp x => obtain ⟨c, rfl⟩ := exec_skp_next h; exact s.skipIf_pc_le c hi
  | sknp x => obtain ⟨c, rfl⟩ := exec_sknp_next h; exact s.skipIf_pc_le c hi
  | ldVxK x =>
    have back : (s.pc - 2).toNat ≤ 0x10FE := by
      rw [BitVec.toNat_sub_of_le lo]
      omega
    rcases exec_ldVxK_cases x s with done | done | ⟨k, done⟩ <;> rw [done] at h <;> cases h
    · exact back
    · exact back
    · exact hi.trans (by decide)
  | _ =>
    have pc_eq : t.pc = s.pc := frame .pc (by simp [Instr.writes])
    rw [pc_eq]
    omega

/-- An instruction keeps the control state: a call pushes an address of memory above `stack[0]`, a return pops one, and no other
instruction writes the stack. -/
theorem exec_controlOk {i : Instr} {s t : State} (h : exec i s = .next t) (hs : ControlOk s) (lo : 2 ≤ s.pc.toNat)
    (hi : s.pc.toNat ≤ 0x1000) : ControlOk t := by
  have frame := exec_keptBut h
  cases i with
  | ret =>
    obtain ⟨nonzero, popped⟩ := exec_ret_next h
    obtain ⟨_, rfl⟩ := (s.popReturn_some_iff t).1 popped
    refine ⟨?_, exec_pc_le h lo hi hs.stack_le, hs.stack_le, hs.stack_zero⟩
    have sp_le := hs.sp_le
    have sp_pos : s.sp.toNat ≠ 0 := fun zero => nonzero (BitVec.eq_of_toNat_eq zero)
    rw [BitVec.toNat_sub_of_le (Nat.one_le_iff_ne_zero.2 sp_pos)]
    omega
  | call nnn =>
    obtain ⟨room, rfl⟩ := (s.pushCall_some_iff t _).1 (exec_call_next h).2
    refine ⟨?_, exec_pc_le h lo hi hs.stack_le, fun j => ?_, ?_⟩
    · rw [BitVec.toNat_add]
      exact (Nat.mod_le _ _).trans (by simp; omega)
    · rw [Vector.getElem_set]
      split
      · exact hi
      · exact hs.stack_le j
    · rw [Vector.getElem_set, if_neg (Nat.succ_ne_zero _)]
      exact hs.stack_zero
  | _ => exact controlOk_of_kept hs (frame .stack (by simp [Instr.writes])) (exec_pc_le h lo hi hs.stack_le)

/-! ### The invariant -/

/-- A state that agrees with one of the invariant in what the invariant reads. -/
theorem inv_congr {s t : State} (h : Inv s) (hmem : t.mem = s.mem) (hcfg : t.cfg = s.cfg) (hrom : t.romImage = s.romImage)
    (hstatus : t.status = s.status) (hpc : t.pc = s.pc) (hstack : Kept .stack s t) : Inv t where
  data := State.dataWf_of_kept h.data hcfg hrom (hmem ▸ ((State.dataWf_iff s).1 h.data).1)
  control running :=
    have control := h.control (hstatus ▸ running)
    controlOk_of_kept control hstack (hpc ▸ control.pc_le)

theorem inv_init (cfg : Config) : Inv (State.init cfg) where
  data := by
    rw [State.dataWf_iff]
    refine ⟨Memory.wf_nil _, ?_⟩
    cases retains : cfg.resetRetainsRom <;> simp [State.init, retains]
  control _ := ⟨by simp [State.init], by simp [State.init], by simp [State.init], by simp [State.init]⟩

theorem step_keeps_inv {s t : State} (hs : Inv s) (h : step s = .next t) : Inv t := by
  obtain ⟨running, i, u, pc_le, executed, rfl, -, -, -, rom_eq, cfg_eq⟩ := step_next_frame h
  have pc_eq : s.advance.pc.toNat = s.pc.toNat + 2 := toNat_add_two (by omega)
  have control := hs.control running
  have advanced : ControlOk s.advance := controlOk_of_kept control ⟨rfl, rfl⟩ (by omega)
  have afterwards := exec_controlOk executed advanced (by omega) (by omega)
  have memory := exec_memory_wf executed ((State.dataWf_iff s).1 hs.data).1
  exact ⟨State.dataWf_of_kept hs.data cfg_eq rom_eq memory, fun _ => controlOk_of_kept afterwards ⟨rfl, rfl⟩ afterwards.pc_le⟩

/-- After a fault only the data form is claimed, and it is the residue's (R105). -/
theorem inv_enterFaulted {s residue : State} (r : FaultRecord) (hcfg : residue.cfg = s.cfg) (hdata : residue.dataWf = true) :
    Inv (s.enterFaulted residue r) where
  data := State.dataWf_of_kept hdata hcfg.symm rfl ((State.dataWf_iff residue).1 hdata).1
  control running := by cases running

/-! ### The operations of the interface -/

theorem State.setKey_keeps_inv {s : State} (k : Int) (b : Bool) (hs : Inv s) : Inv (s.setKey k b) ∧ (s.setKey k b).cfg = s.cfg := by
  by_cases valid : 0 ≤ k ∧ k ≤ 15
  · rw [s.setKey_of_valid b valid]
    exact ⟨inv_congr hs rfl rfl rfl rfl rfl ⟨rfl, rfl⟩, rfl⟩
  · rw [s.setKey_of_invalid b valid]
    exact ⟨hs, rfl⟩

theorem State.tick_keeps_inv {s residue : State} (hs : Inv s) (hcfg : residue.cfg = s.cfg) (hdata : residue.dataWf = true) :
    Inv (s.tick residue) ∧ (s.tick residue).cfg = s.cfg := by
  cases outcome : step s with
  | next t =>
    rw [State.tick_of_next residue outcome]
    obtain ⟨-, i, u, -, -, rfl, -, -, -, -, cfg_eq⟩ := step_next_frame outcome
    exact ⟨step_keeps_inv hs outcome, cfg_eq⟩
  | fault f =>
    cases recorded : f.record with
    | some r =>
      rw [State.tick_of_record residue outcome recorded]
      exact ⟨inv_enterFaulted r hcfg hdata, rfl⟩
    | none =>
      rw [State.tick_of_no_record residue outcome recorded]
      exact ⟨hs, rfl⟩
  | refused r =>
    rw [State.tick_of_refused residue outcome]
    exact ⟨hs, rfl⟩

/-- A ROM written at `0x200` and a `rom_image` of legal form keep the invariant (R29, R125). -/
theorem inv_writeRom {s : State} (hs : Inv s) {bytes : List Byte} {image : Option (List Byte)} (fits : bytes.length ≤ 0xE00)
    (himage : ∀ kept, image = some kept → s.cfg.resetRetainsRom = true ∧ kept.length ≤ 0xE00)
    (habsent : image = none → s.cfg.resetRetainsRom = false) : Inv { s.writeBytes 0x200 bytes with romImage := image } := by
  have memory := State.wf_writeBytes (a := 0x200) (bs := bytes) (by omega) ((State.dataWf_iff s).1 hs.data).1
  rw [State.writeBytes_eq]
  exact ⟨(State.dataWf_iff _).2 ⟨memory, himage, habsent⟩, fun running =>
    controlOk_of_kept (hs.control running) ⟨rfl, rfl⟩ (hs.control running).pc_le⟩

theorem State.loadRom_of_too_long {s : State} (residue : State) {bytes : List Byte} (h : 0xE00 < bytes.length) :
    s.loadRom residue bytes = s.enterFaulted residue ⟨.romTooLarge, none, BitVec.ofNat 16 (min bytes.length 0xFFFF)⟩ :=
  if_pos h

theorem State.loadRom_of_fits {s : State} (residue : State) {bytes : List Byte} (h : bytes.length ≤ 0xE00) :
    s.loadRom residue bytes =
      { s.writeBytes 0x200 bytes with romImage := if s.cfg.resetRetainsRom then some bytes else s.romImage } :=
  if_neg (Nat.not_lt.2 h)

theorem State.loadRom_keeps_inv {s residue : State} (bytes : List Byte) (hs : Inv s) (hcfg : residue.cfg = s.cfg)
    (hdata : residue.dataWf = true) : Inv (s.loadRom residue bytes) ∧ (s.loadRom residue bytes).cfg = s.cfg := by
  obtain ⟨-, image, absent⟩ := (State.dataWf_iff s).1 hs.data
  rcases Nat.lt_or_ge 0xE00 bytes.length with tooLong | fits
  · rw [State.loadRom_of_too_long residue tooLong]
    exact ⟨inv_enterFaulted _ hcfg hdata, rfl⟩
  · rw [State.loadRom_of_fits residue fits]
    refine ⟨inv_writeRom hs fits (fun kept hkept => ?_) (fun hnone => ?_), s.writeBytes_cfg _ _⟩
    · split at hkept
      · cases hkept
        exact ⟨‹_›, fits⟩
      · exact image kept hkept
    · split at hnone
      · cases hnone
      · exact absent hnone

theorem State.reinit_inv (s : State) : Inv s.reinit := inv_congr (inv_init s.cfg) rfl rfl rfl rfl rfl ⟨rfl, rfl⟩

/-- Under `RESET_RETAINS_ROM` the kept ROM is written over what `init` leaves (R128). -/
theorem State.doReset_of_retains {s : State} (h : s.cfg.resetRetainsRom = true) :
    s.doReset = { s.reinit.writeBytes 0x200 (s.romImage.getD []) with romImage := s.romImage } :=
  if_pos h

theorem State.doReset_of_not_retains {s : State} (h : s.cfg.resetRetainsRom = false) : s.doReset = s.reinit :=
  if_neg (by simp [h])

theorem State.doReset_keeps_inv {s : State} (hs : Inv s) : Inv s.doReset ∧ s.doReset.cfg = s.cfg := by
  obtain ⟨-, image, absent⟩ := (State.dataWf_iff s).1 hs.data
  cases retains : s.cfg.resetRetainsRom with
  | true =>
    rw [State.doReset_of_retains retains]
    refine ⟨inv_writeRom s.reinit_inv ?_ image absent, State.writeBytes_cfg _ _ _⟩
    cases kept : s.romImage with
    | some bytes => exact (image bytes kept).2
    | none => exact Nat.zero_le _
  | false =>
    rw [State.doReset_of_not_retains retains]
    exact ⟨s.reinit_inv, rfl⟩

theorem Op.apply_keeps_inv (o : Op) {residue s : State} (hs : Inv s) (hcfg : residue.cfg = s.cfg) (hdata : residue.dataWf = true) :
    Inv (o.apply residue s) ∧ (o.apply residue s).cfg = s.cfg := by
  cases o with
  | init => exact ⟨s.reinit_inv, rfl⟩
  | loadRom bytes => exact State.loadRom_keeps_inv bytes hs hcfg hdata
  | reset => exact State.doReset_keeps_inv hs
  | tick => exact State.tick_keeps_inv hs hcfg hdata
  | updateTimers => exact ⟨inv_congr hs rfl rfl rfl rfl rfl ⟨rfl, rfl⟩, rfl⟩
  | keyDown k => exact State.setKey_keeps_inv k true hs
  | keyUp k => exact State.setKey_keeps_inv k false hs
  | display => exact ⟨hs, rfl⟩
  | hasChanged => exact ⟨inv_congr hs rfl rfl rfl rfl rfl ⟨rfl, rfl⟩, rfl⟩
  | shouldBeep => exact ⟨hs, rfl⟩

/-- The invariant and the parameters hold of every reachable state: `init` has them and every operation keeps them. -/
theorem inv_of_reachable {cfg : Config} {s : State} (h : Reachable cfg s) : Inv s ∧ s.cfg = cfg := by
  induction h with
  | init => exact ⟨inv_init cfg, rfl⟩
  | op o residue _ hcfg hdata ih =>
    obtain ⟨inv, cfg_eq⟩ := ih
    obtain ⟨inv', cfg_eq'⟩ := Op.apply_keeps_inv o inv (hcfg.trans cfg_eq.symm) hdata
    exact ⟨inv', cfg_eq'.trans cfg_eq⟩

/-- The model's own stop for `sp` above 15 has no record, so no state of the invariant raises it. -/
theorem step_ne_illegalStackPointer {s : State} (hs : Inv s) (o : Word) (p : Byte) :
    step s ≠ .fault (.illegalStackPointer o p) := by
  intro stopped
  cases status : s.status with
  | faulted r => exact absurd ((step_of_faulted status).symm.trans stopped) (by simp)
  | running =>
    obtain ⟨r, recorded, -⟩ := step_fault_record status (hs.control status).sp_le stopped
    cases recorded

end Sys2Proof.Machine

open Sys2Proof Sys2Proof.Machine

/-- Settles O57: the instruction keeps the canonical memory and the control state, and the snapshot touches neither. -/
theorem stepKeepsTheInvariant : Obligations.StepKeepsTheInvariant := fun _ _ => step_keeps_inv

/-- Settles O59: one lemma per operation. -/
theorem everyOperationKeepsTheInvariant : Obligations.EveryOperationKeepsTheInvariant := fun o _ _ => Op.apply_keeps_inv o

/-- Settles O58: induction over the operations, from O56 by O59; the model's own stop is none of the recorded faults. -/
theorem everyReachableStateHasTheInvariant : Obligations.EveryReachableStateHasTheInvariant := by
  intro cfg s reachable
  obtain ⟨inv, cfg_eq⟩ := inv_of_reachable reachable
  exact ⟨inv, cfg_eq, step_ne_illegalStackPointer inv⟩

/-- Settles O56: memory lists nothing, `sp` and the stack are 0, and `pc` is `0x200`. -/
theorem invariantAtReset : Obligations.InvariantAtReset := ⟨inv_init, inv_init defaultConfig⟩

/-- Settles O6: the fetched word is the one whose decoding is given. -/
theorem stepRunsTheDecodedInstruction : Obligations.StepRunsTheDecodedInstruction := by
  intro s i running inside decoded
  have fetched : fetchDecode s = .ok i := (fetchDecode_ok_iff s i).2 ⟨inside, decoded⟩
  have ticked : step s = endTick (exec i { s with pc := s.pc + 2 }) := step_of_fetchDecode_ok running fetched
  rw [ticked]
  cases exec i { s with pc := s.pc + 2 } <;> rfl

/-- Settles O9: the step stops with a fault that has no record. -/
theorem noStepWhileFaulted : Obligations.NoStepWhileFaulted :=
  fun _ residue _ faulted => ⟨step_of_faulted faulted, State.tick_of_no_record residue (step_of_faulted faulted) rfl⟩

/-- Settles O10: no instruction writes the keypad or the status, and the snapshot ends the tick. -/
theorem completedTickTakesTheKeypadSnapshot : Obligations.CompletedTickTakesTheKeypadSnapshot := by
  intro s t h
  obtain ⟨running, i, u, -, -, rfl, cur_eq, -, status_eq, -⟩ := step_next_frame h
  exact ⟨cur_eq, cur_eq, running, status_eq.trans running⟩

/-- Settles O11: the fault has a record, which `tick` puts into the status, and in Faulted there is no step. -/
theorem faultingTickRecordsItsStatus : Obligations.FaultingTickRecordsItsStatus := by
  intro s residue f running sp_le faulted
  obtain ⟨r, recorded, origin⟩ := step_fault_record running sp_le faulted
  have entered : ∀ left : State, (s.tick left).status = .faulted r := fun left => by
    rw [State.tick_of_record left faulted recorded]
    rfl
  exact ⟨r, recorded, origin, entered residue, fun left => step_of_faulted (entered left)⟩

end

section
/-! PROOFS. The opcode table (30_encoding.md R52, R54, R56): a word satisfies a row's match and mask exactly when it has the row's digits,
and the words without a row. -/

namespace Sys2Proof.Machine

/-! ### Masks and digits -/

/-- A mask of the table keeps the leading nibble and the low `k` bits. -/
theorem toNat_and_mask_eq {n k : Nat} (hn : n < 65536) (hk : k ≤ 12) :
    n &&& (15 * 2 ^ 12 + (2 ^ k - 1)) = n / 2 ^ 12 * 2 ^ 12 + n % 2 ^ k := by
  have low_lt : 2 ^ k - 1 < 2 ^ 12 := (Nat.sub_one_lt_of_lt (Nat.two_pow_pos k)).trans_le (Nat.pow_le_pow_right (by decide) hk)
  have high : (n &&& (15 * 2 ^ 12 + (2 ^ k - 1))) / 2 ^ 12 = n / 2 ^ 12 := by
    rw [Nat.and_div_two_pow, Nat.mul_comm, Nat.mul_add_div (by decide), Nat.div_eq_of_lt low_lt]
    exact (Nat.and_two_pow_sub_one_eq_mod _ 4).trans (Nat.mod_eq_of_lt (by omega))
  have low : (n &&& (15 * 2 ^ 12 + (2 ^ k - 1))) % 2 ^ 12 = n % 2 ^ k := by
    rw [Nat.and_mod_two_pow, Nat.mul_add_mod', Nat.mod_eq_of_lt low_lt, Nat.and_two_pow_sub_one_eq_mod,
      Nat.mod_mod_of_dvd _ (Nat.pow_dvd_pow 2 hk)]
  rw [← high, ← low, Nat.div_add_mod']

/-- A word agrees with `m` under such a mask exactly when their leading nibbles and their low `k` bits agree. -/
theorem and_mask_eq_iff {op mask m : Word} {k : Nat} (hk : k ≤ 12) (hmask : mask.toNat = 15 * 2 ^ 12 + (2 ^ k - 1))
    (hm : m.toNat % 2 ^ 12 < 2 ^ k) : op &&& mask = m ↔ op.toNat / 4096 = m.toNat / 4096 ∧ op.toNat % 2 ^ k = m.toNat % 2 ^ k := by
  have pow_le : 2 ^ k ≤ 2 ^ 12 := Nat.pow_le_pow_right (by decide) hk
  have op_low := Nat.mod_lt op.toNat (Nat.two_pow_pos k)
  have m_low : m.toNat % 2 ^ k = m.toNat % 2 ^ 12 := by
    rw [← Nat.mod_mod_of_dvd m.toNat (Nat.pow_dvd_pow 2 hk), Nat.mod_eq_of_lt hm]
  rw [BitVec.toNat_eq, BitVec.toNat_and, hmask, toNat_and_mask_eq op.isLt hk, m_low]
  omega

/-- A word has the digits that a row fixes. -/
def HasDigits (op : Word) (i : Instr) : Prop :=
  op.toNat / 4096 = i.matchMask.1.toNat / 4096 ∧
  (i.matchMask.2 = 0xF00F → op.toNat % 16 = i.matchMask.1.toNat % 16) ∧
  (i.matchMask.2 = 0xF0FF → op.toNat % 256 = i.matchMask.1.toNat % 256) ∧
  (i.matchMask.2 = 0xFFFF → op = i.matchMask.1)

/-- The table has four masks, and no row matches a bit outside its mask. -/
theorem matchMask_form (i : Instr) :
    (i.matchMask.2 = 0xF000 ∧ i.matchMask.1.toNat % 2 ^ 12 < 2 ^ 0) ∨
    (i.matchMask.2 = 0xF00F ∧ i.matchMask.1.toNat % 2 ^ 12 < 2 ^ 4) ∨
    (i.matchMask.2 = 0xF0FF ∧ i.matchMask.1.toNat % 2 ^ 12 < 2 ^ 8) ∨ i.matchMask.2 = 0xFFFF := by
  cases i <;> simp [Instr.matchMask]

theorem and_mask_iff_hasDigits (op : Word) (i : Instr) : op &&& i.matchMask.2 = i.matchMask.1 ↔ HasDigits op i := by
  unfold HasDigits
  rcases matchMask_form i with ⟨mask, low⟩ | ⟨mask, low⟩ | ⟨mask, low⟩ | mask
  · rw [and_mask_eq_iff (k := 0) (by decide) (congrArg BitVec.toNat mask) low]
    simp [mask, Nat.mod_one]
  · rw [and_mask_eq_iff (k := 4) (by decide) (congrArg BitVec.toNat mask) low]
    simp [mask]
  · rw [and_mask_eq_iff (k := 8) (by decide) (congrArg BitVec.toNat mask) low]
    simp [mask]
  · have all : op &&& i.matchMask.2 = op := by rw [mask]; exact BitVec.and_allOnes
    rw [all, mask]
    exact ⟨fun whole => ⟨by rw [whole], by simp, by simp, fun _ => whole⟩, fun ⟨_, _, _, whole⟩ => whole rfl⟩

theorem encode_hasDigits (i : Instr) : HasDigits (encode i) i := by
  cases i with
  | cls => exact Laws.FixedDigits.cls
  | ret => exact Laws.FixedDigits.ret
  | jp nnn => exact Laws.FixedDigits.jp nnn
  | call nnn => exact Laws.FixedDigits.call nnn
  | seByte x kk => exact Laws.FixedDigits.seByte x kk
  | sneByte x kk => exact Laws.FixedDigits.sneByte x kk
  | seReg x y => exact Laws.FixedDigits.seReg x y
  | sneReg x y => exact Laws.FixedDigits.sneReg x y
  | ldByte x kk => exact Laws.FixedDigits.ldByte x kk
  | addByte x kk => exact Laws.FixedDigits.addByte x kk
  | ldReg x y => exact Laws.FixedDigits.ldReg x y
  | orReg x y => exact Laws.FixedDigits.orReg x y
  | andReg x y => exact Laws.FixedDigits.andReg x y
  | xorReg x y => exact Laws.FixedDigits.xorReg x y
  | addReg x y => exact Laws.FixedDigits.addReg x y
  | sub x y => exact Laws.FixedDigits.sub x y
  | shr x y => exact Laws.FixedDigits.shr x y
  | subn x y => exact Laws.FixedDigits.subn x y
  | shl x y => exact Laws.FixedDigits.shl x y
  | ldI nnn => exact Laws.FixedDigits.ldI nnn
  | jpV0 nnn => exact Laws.FixedDigits.jpV0 nnn
  | rnd x kk => exact Laws.FixedDigits.rnd x kk
  | drw x y n => exact Laws.FixedDigits.drw x y n
  | skp x => exact Laws.FixedDigits.skp x
  | sknp x => exact Laws.FixedDigits.sknp x
  | ldVxDT x => exact Laws.FixedDigits.ldVxDT x
  | ldVxK x => exact Laws.FixedDigits.ldVxK x
  | ldDTVx x => exact Laws.FixedDigits.ldDTVx x
  | ldSTVx x => exact Laws.FixedDigits.ldSTVx x
  | addI x => exact Laws.FixedDigits.addI x
  | ldF x => exact Laws.FixedDigits.ldF x
  | ldB x => exact Laws.FixedDigits.ldB x
  | storeRegs x => exact Laws.FixedDigits.storeRegs x
  | loadRegs x => exact Laws.FixedDigits.loadRegs x

/-! ### A word with a row's digits is the word of an instruction of that row -/

/-- `i` with the operands that the fields of `op` give. -/
def withFieldsOf (op : Word) : Instr → Instr
  | .cls => .cls
  | .ret => .ret
  | .jp _ => .jp (fieldNNN op)
  | .call _ => .call (fieldNNN op)
  | .seByte _ _ => .seByte (fieldX op) (fieldKK op)
  | .sneByte _ _ => .sneByte (fieldX op) (fieldKK op)
  | .seReg _ _ => .seReg (fieldX op) (fieldY op)
  | .sneReg _ _ => .sneReg (fieldX op) (fieldY op)
  | .ldByte _ _ => .ldByte (fieldX op) (fieldKK op)
  | .addByte _ _ => .addByte (fieldX op) (fieldKK op)
  | .ldReg _ _ => .ldReg (fieldX op) (fieldY op)
  | .orReg _ _ => .orReg (fieldX op) (fieldY op)
  | .andReg _ _ => .andReg (fieldX op) (fieldY op)
  | .xorReg _ _ => .xorReg (fieldX op) (fieldY op)
  | .addReg _ _ => .addReg (fieldX op) (fieldY op)
  | .sub _ _ => .sub (fieldX op) (fieldY op)
  | .shr _ _ => .shr (fieldX op) (fieldY op)
  | .subn _ _ => .subn (fieldX op) (fieldY op)
  | .shl _ _ => .shl (fieldX op) (fieldY op)
  | .ldI _ => .ldI (fieldNNN op)
  | .jpV0 _ => .jpV0 (fieldNNN op)
  | .rnd _ _ => .rnd (fieldX op) (fieldKK op)
  | .drw _ _ _ => .drw (fieldX op) (fieldY op) (fieldN op)
  | .skp _ => .skp (fieldX op)
  | .sknp _ => .sknp (fieldX op)
  | .ldVxDT _ => .ldVxDT (fieldX op)
  | .ldVxK _ => .ldVxK (fieldX op)
  | .ldDTVx _ => .ldDTVx (fieldX op)
  | .ldSTVx _ => .ldSTVx (fieldX op)
  | .addI _ => .addI (fieldX op)
  | .ldF _ => .ldF (fieldX op)
  | .ldB _ => .ldB (fieldX op)
  | .storeRegs _ => .storeRegs (fieldX op)
  | .loadRegs _ => .loadRegs (fieldX op)

theorem withFieldsOf_matchMask (op : Word) (i : Instr) : (withFieldsOf op i).matchMask = i.matchMask := by
  cases i <;> rfl

theorem withFieldsOf_wf (op : Word) (i : Instr) : (withFieldsOf op i).wf = true := by
  cases i with
  | drw x y n => exact decide_eq_true (fieldN_lt op)
  | _ => rfl

theorem encode_withFieldsOf {op : Word} {i : Instr} (h : HasDigits op i) : encode (withFieldsOf op i) = op := by
  obtain ⟨lead, nibble, low, whole⟩ := h
  cases i with
  | cls | ret => exact (whole rfl).symm
  | jp nnn | call nnn | ldI nnn | jpV0 nnn => exact hexWordA_fields (lead.trans (by simp [Instr.matchMask]))
  | seByte x kk | sneByte x kk | ldByte x kk | addByte x kk | rnd x kk => exact hexWordXK_fields (lead.trans (by simp [Instr.matchMask]))
  | drw x y n => exact hexWord_fields (lead.trans (by simp [Instr.matchMask])) (Nat.mod_eq_of_lt (fieldN_lt op)).symm
  | seReg x y | sneReg x y | ldReg x y | orReg x y | andReg x y | xorReg x y | addReg x y | sub x y | shr x y | subn x y | shl x y =>
    exact hexWord_fields (lead.trans (by simp [Instr.matchMask])) ((nibble rfl).trans (by simp [Instr.matchMask]))
  | skp x | sknp x | ldVxDT x | ldVxK x | ldDTVx x | ldSTVx x | addI x | ldF x | ldB x | storeRegs x | loadRegs x =>
    have low_byte := (BitVec.toNat_ofNat op.toNat 8).trans (low rfl)
    exact hexWord_low (lead.trans (by simp [Instr.matchMask])) (low_byte.trans (by simp [Instr.matchMask]))

/-! ### Words without a row -/

theorem decode0_eq_none_iff (op : Word) : decode0 op = none ↔ op ≠ 0x00E0 ∧ op ≠ 0x00EE := by
  rw [ne_eq, ne_eq, BitVec.toNat_eq, BitVec.toNat_eq]
  unfold decode0
  split <;> simp_all

theorem decode8_eq_none_iff (op : Word) : decode8 op = none ↔ fieldN op ∈ [0x8, 0x9, 0xA, 0xB, 0xC, 0xD, 0xF] := by
  have nibble_lt := fieldN_lt op
  unfold decode8
  generalize fieldN op = nibble at nibble_lt
  interval_cases nibble <;> simp

theorem decodeE_eq_none_iff (op : Word) : decodeE op = none ↔ (fieldKK op).toNat ∉ [0x9E, 0xA1] := by
  unfold decodeE
  split <;> simp_all

theorem decodeF_eq_none_iff (op : Word) :
    decodeF op = none ↔ (fieldKK op).toNat ∉ [0x07, 0x0A, 0x15, 0x18, 0x1E, 0x29, 0x33, 0x55, 0x65] := by
  unfold decodeF
  split <;> simp_all

end Sys2Proof.Machine

open Sys2Proof Sys2Proof.Machine

/-- Settles O4: a word that decodes is its instruction's word, which has the row's digits; a word with a row's digits is the word of
the row's instruction with the word's own fields. -/
theorem decodeAgreesWithMatchAndMask : Obligations.DecodeAgreesWithMatchAndMask := by
  intro op
  constructor
  · intro i decoded
    obtain ⟨-, rfl⟩ := encode_of_decode decoded
    exact (and_mask_iff_hasDigits _ i).2 (encode_hasDigits i)
  · intro i masked
    have word := encode_withFieldsOf ((and_mask_iff_hasDigits op i).1 masked)
    have decoded := decode_encode (withFieldsOf_wf op i)
    rw [word] at decoded
    exact ⟨_, decoded, withFieldsOf_matchMask op i⟩

/-- Settles O5: one leading nibble at a time; only 0, 5, 8, 9, E and F have words without a row. -/
theorem illegalWordsAreTheListedGroups : Obligations.IllegalWordsAreTheListedGroups := by
  intro op
  have lead_lt : fieldLead op < 16 := Nat.div_lt_of_lt_mul op.isLt
  have kk_eq : (fieldKK op).toNat = op.toNat % 256 := BitVec.toNat_ofNat _ _
  rw [decode_error_iff, decodePattern_lead rfl]
  change _ ↔ (fieldLead op = _ ∧ _) ∨ (fieldLead op = _ ∧ fieldN op ≠ _) ∨ (fieldLead op = _ ∧ fieldN op ∈ _) ∨
    (fieldLead op = _ ∧ fieldN op ≠ _) ∨ (fieldLead op = _ ∧ _) ∨ (fieldLead op = _ ∧ _)
  rw [← kk_eq]
  generalize fieldLead op = d at lead_lt
  interval_cases d <;>
    simp [decodeLead, decode0_eq_none_iff, decode8_eq_none_iff, decodeE_eq_none_iff, decodeF_eq_none_iff]

/-- Settles O1: each word is evaluated. -/
theorem spelledWordsDecode : Obligations.SpelledWordsDecode :=
  ⟨rfl, rfl, rfl, rfl, rfl, rfl, rfl, rfl, rfl, rfl, rfl, rfl, rfl, rfl, rfl⟩

end

section
/-! PROOFS. Calls, jumps, the ALU and `ADD I` (40_control_flow.md R59, R61, R64 to R66; 41_register_alu.md R71 to R79; 42_index_memory.md R82). -/

namespace Sys2Proof.Machine

/-! ### Execution -/

/-- Below 15 frames `CALL` pushes the return address at `sp + 1` (R61). -/
theorem exec_call_of_lt {s : State} (nnn : Addr) (h : s.sp.toNat < 15) :
    exec (.call nnn) s =
      .next { s with sp := s.sp + 1, stack := s.stack.set (s.sp.toNat + 1) s.pc, pc := zextAddr nnn } := by
  have notFull : s.sp ≠ 15 := fun full => absurd (congrArg BitVec.toNat full) (Nat.ne_of_lt h)
  exact exec_call_of_pushCall notFull ((s.pushCall_some_iff _ _).2 ⟨by omega, rfl⟩)

/-- With a frame on the stack `RET` pops it (R59). -/
theorem exec_ret_of_inside {s : State} (nonzero : s.sp ≠ 0) (inside : s.sp.toNat < 16) :
    exec .ret s = .next { s with pc := s.stack[s.sp.toNat], sp := s.sp - 1 } :=
  exec_ret_of_popReturn nonzero ((s.popReturn_some_iff _).2 ⟨inside, rfl⟩)

/-- `sp + 1` does not wrap below 15 frames. -/
theorem toNat_sp_add_one {sp : Byte} (h : sp.toNat < 15) : (sp + 1).toNat = sp.toNat + 1 := by
  rw [BitVec.toNat_add]
  exact Nat.mod_eq_of_lt (by simp; omega)

/-- A return right after the push comes back to where the push was made, with the entry left in the stack (R59, R61). -/
theorem exec_ret_of_pushed {s : State} (target : Word) (h : s.sp.toNat < 15) :
    exec .ret { s with sp := s.sp + 1, stack := s.stack.set (s.sp.toNat + 1) s.pc, pc := target } =
      .next { s with stack := s.stack.set (s.sp.toNat + 1) s.pc } := by
  have sp_eq := toNat_sp_add_one h
  have inside : (s.sp + 1).toNat < 16 := by omega
  have nonzero : s.sp + 1 ≠ 0 := fun zero => Nat.succ_ne_zero s.sp.toNat (sp_eq.symm.trans (congrArg BitVec.toNat zero))
  have top : (s.stack.set (s.sp.toNat + 1) s.pc)[(s.sp + 1).toNat] = s.pc := by
    simp only [sp_eq, Vector.getElem_set_self]
  have back : s.sp + 1 - 1 = s.sp := BitVec.add_sub_cancel _ _
  rw [exec_ret_of_inside nonzero inside]
  simp only [top, back]

/-- A change of stack entries alone is within the frame of the stack. -/
theorem State.stack_keptBut (s : State) (entries : Vector Word 16) : KeptBut [.stack] s { s with stack := entries } := by
  intro p hp
  cases p <;> simp [Kept, State.getV, State.readByte] at hp ⊢

theorem exec_seReg (x y : RegIx) (s : State) : exec (.seReg x y) s = .next (s.skipIf (decide (s.getV x = s.getV y))) := rfl

theorem exec_sneReg (x y : RegIx) (s : State) : exec (.sneReg x y) s = .next (s.skipIf (decide (s.getV x ≠ s.getV y))) := rfl

theorem exec_jpV0 (nnn : Addr) (s : State) : exec (.jpV0 nnn) s = .next (s.setPc (zextAddr nnn + zextByte (s.getV 0))) := rfl

theorem exec_orReg (x y : RegIx) (s : State) :
    exec (.orReg x y) s = .next (s.setFlagged x (s.getV x ||| s.getV y) flagLogic) := rfl

theorem exec_andReg (x y : RegIx) (s : State) :
    exec (.andReg x y) s = .next (s.setFlagged x (s.getV x &&& s.getV y) flagLogic) := rfl

theorem exec_xorReg (x y : RegIx) (s : State) :
    exec (.xorReg x y) s = .next (s.setFlagged x (s.getV x ^^^ s.getV y) flagLogic) := rfl

theorem exec_addReg (x y : RegIx) (s : State) : exec (.addReg x y) s =
    .next (s.setFlagged x (trunc8 ((s.getV x).toNat + (s.getV y).toNat)) (flagCarry (s.getV x) (s.getV y))) := rfl

theorem exec_sub (x y : RegIx) (s : State) :
    exec (.sub x y) s = .next (s.setFlagged x (s.getV x - s.getV y) (flagGreater (s.getV x) (s.getV y))) := rfl

theorem exec_subn (x y : RegIx) (s : State) :
    exec (.subn x y) s = .next (s.setFlagged x (s.getV y - s.getV x) (flagGreater (s.getV y) (s.getV x))) := rfl

theorem exec_shr (x y : RegIx) (s : State) :
    exec (.shr x y) s = .next (s.setFlagged x (s.getV y >>> 1) (flagShiftRight (s.getV y))) := rfl

theorem exec_shl (x y : RegIx) (s : State) :
    exec (.shl x y) s = .next (s.setFlagged x (trunc8 ((s.getV y).toNat * 2)) (flagShiftLeft (s.getV y))) := rfl

theorem exec_rnd (x : RegIx) (kk : Byte) (s : State) :
    exec (.rnd x kk) s = .next (s.draw.2.setV x (Config.random8 s.draws &&& kk)) := rfl

/-! ### One flagged write -/

/-- An instruction that is one flagged write gives `VF` the flag, another `Vx` the result, and leaves everything else (R10). -/
theorem exec_writesOnly_of_setFlagged {i : Instr} {s : State} {x : RegIx} {b f : Byte}
    (h : exec i s = .next (s.setFlagged x b f)) :
    ∃ t, exec i s = .next t ∧ (∀ r : RegIx, t.getV r = if r = 15 then f else if r = x then b else s.getV r) ∧
      KeptBut [.regs] s t :=
  ⟨_, h, fun r => s.getV_setFlagged x r b f, s.setFlagged_keptBut x b f⟩

/-- The same, with the flag and the result as numbers. -/
theorem exec_toNat_of_setFlagged {i : Instr} {s : State} {x : RegIx} {b f : Byte} {result flag : Nat}
    (h : exec i s = .next (s.setFlagged x b f)) (hb : b.toNat = result) (hf : f.toNat = flag) :
    ∃ t, exec i s = .next t ∧
      (∀ r : RegIx, (t.getV r).toNat = if r = 15 then flag else if r = x then result else (s.getV r).toNat) ∧
      KeptBut [.regs] s t := by
  obtain ⟨t, completes, registers, frame⟩ := exec_writesOnly_of_setFlagged h
  refine ⟨t, completes, fun r => ?_, frame⟩
  rw [registers r, apply_ite BitVec.toNat, apply_ite BitVec.toNat, hb, hf]

/-! ### Results and flags as numbers -/

theorem toNat_trunc8 (n : Nat) : (trunc8 n).toNat = n % 256 := BitVec.toNat_ofNat _ _

theorem toNat_flagOf (c : Bool) : (flagOf c).toNat = if c = true then 1 else 0 := by cases c <;> rfl

theorem toNat_flagCarry (a b : Byte) : (flagCarry a b).toNat = if 255 < a.toNat + b.toNat then 1 else 0 := by
  simp only [flagCarry, toNat_flagOf, decide_eq_true_eq]

theorem toNat_flagGreater (a b : Byte) : (flagGreater a b).toNat = if b.toNat < a.toNat then 1 else 0 := by
  simp only [flagGreater, toNat_flagOf, decide_eq_true_eq]

theorem toNat_byte_sub (a b : Byte) : (a - b).toNat = (a.toNat + 256 - b.toNat) % 256 := by
  have b_lt := b.isLt
  rw [BitVec.toNat_sub]
  omega

theorem toNat_shiftRight_one (b : Byte) : (b >>> 1).toNat = b.toNat / 2 := by
  rw [BitVec.toNat_ushiftRight, Nat.shiftRight_eq_div_pow]

theorem toNat_flagShiftRight (b : Byte) : (flagShiftRight b).toNat = b.toNat % 2 := by
  rw [flagShiftRight, BitVec.toNat_and]
  exact Nat.and_one_is_mod b.toNat

theorem toNat_flagShiftLeft (b : Byte) : (flagShiftLeft b).toNat = b.toNat / 128 := by
  have b_lt := b.isLt
  have bit : (flagShiftLeft b).toNat = (b >>> 7).toNat % 2 := toNat_flagShiftRight (b >>> 7)
  rw [bit, BitVec.toNat_ushiftRight, Nat.shiftRight_eq_div_pow]
  omega

/-- A masked byte has no bit outside the mask. -/
theorem and_and_not_self (b m : Byte) : b &&& m &&& ~~~m = 0 := by
  rw [BitVec.and_assoc, BitVec.and_not_self]
  exact BitVec.and_zero

end Sys2Proof.Machine

open Sys2Proof Sys2Proof.Machine

/-- Settles O15: `sp = 15` is the overflow; below, the push writes the one entry at `sp + 1`. -/
theorem callPushesTheReturnAddress : Obligations.CallPushesTheReturnAddress := by
  intro nnn s
  refine ⟨decode_call nnn, exec_call_of_sp_eq_15 nnn, fun room => ?_⟩
  have completes := exec_call_of_lt nnn room
  refine ⟨_, completes, toNat_zextAddr nnn, toNat_sp_add_one room, fun j => ?_, exec_keptBut completes⟩
  simp only [Vector.getElem_set, eq_comm]

/-- Settles O16: the entry pushed at `sp + 1` is the one popped, and it lies above the frames that were there. -/
theorem returnUndoesCall : Obligations.ReturnUndoesCall := by
  intro nnn s room
  refine ⟨_, _, exec_call_of_lt nnn room, exec_ret_of_pushed (zextAddr nnn) room, rfl, rfl, fun j active => ?_,
    s.stack_keptBut _⟩
  exact Vector.getElem_set_ne (by omega) j.isLt (by omega)

/-- Settles O18: both instructions are a skip, on a condition and on its negation. -/
theorem skipsOnRegisters : Obligations.SkipsOnRegisters := by
  intro x y s
  refine ⟨decode_seReg x y, decode_sneReg x y, ⟨_, exec_seReg x y s, ?_, s.skipIf_keptBut _⟩,
    ⟨_, exec_sneReg x y s, ?_, s.skipIf_keptBut _⟩⟩
  · simp only [State.skipIf_pc, decide_eq_true_eq]
  · simp only [State.skipIf_pc, decide_eq_true_eq, ne_eq, ite_not]

/-- Settles O19: the sum of 12 bits and 8 bits fits in `pc`. -/
theorem jpV0AddsV0Unmasked : Obligations.JpV0AddsV0Unmasked :=
  fun nnn s => ⟨decode_jpV0 nnn, _, exec_jpV0 nnn s, toNat_zextAddr_add_zextByte nnn _, s.setPc_keptBut _⟩

/-- Settles O22: each of the three is one flagged write with the flag 0. -/
theorem logicalOpsResetVF : Obligations.LogicalOpsResetVF := fun x y s =>
  ⟨decode_orReg x y, decode_andReg x y, decode_xorReg x y, exec_writesOnly_of_setFlagged (exec_orReg x y s),
    exec_writesOnly_of_setFlagged (exec_andReg x y s), exec_writesOnly_of_setFlagged (exec_xorReg x y s)⟩

/-- Settles O23: one flagged write of the low 8 bits and the carry. -/
theorem addRegistersCarriesIntoVF : Obligations.AddRegistersCarriesIntoVF := fun x y s =>
  ⟨decode_addReg x y, exec_toNat_of_setFlagged (exec_addReg x y s) (toNat_trunc8 _) (toNat_flagCarry _ _)⟩

/-- Settles O24: two flagged writes, with the operands exchanged. -/
theorem subtractionsCompareStrictly : Obligations.SubtractionsCompareStrictly := fun x y s =>
  ⟨decode_sub x y, decode_subn x y, exec_toNat_of_setFlagged (exec_sub x y s) (toNat_byte_sub _ _) (toNat_flagGreater _ _),
    exec_toNat_of_setFlagged (exec_subn x y s) (toNat_byte_sub _ _) (toNat_flagGreater _ _)⟩

/-- Settles O25: two flagged writes of what `Vy` shifts to and shifts out. -/
theorem shiftsTakeVy : Obligations.ShiftsTakeVy := fun x y s =>
  ⟨decode_shr x y, decode_shl x y, exec_toNat_of_setFlagged (exec_shr x y s) (toNat_shiftRight_one _) (toNat_flagShiftRight _),
    exec_toNat_of_setFlagged (exec_shl x y s) (toNat_trunc8 _) (toNat_flagShiftLeft _)⟩

/-- Settles O26: the draw is used up, and one register is written with it under the mask. -/
theorem randomByteIsMasked : Obligations.RandomByteIsMasked := by
  intro x kk s
  have loaded : (s.draw.2.setV x (Config.random8 s.draws &&& kk)).getV x = Config.random8 s.draws &&& kk := by
    rw [State.getV_setV, if_pos rfl]
  refine ⟨decode_rnd x kk, _, exec_rnd x kk s, loaded, ?_, ?_, rfl, fun r other => ?_, exec_keptBut (exec_rnd x kk s)⟩
  · rw [loaded, and_and_not_self]
  · rintro rfl
    rw [loaded]
    exact BitVec.and_allOnes
  · rw [State.getV_setV, if_neg other, State.getV_draw]

/-- Settles O28: the sum is compared with `0xFFFF` before it is written. -/
theorem addIndexNeverWraps : Obligations.AddIndexNeverWraps := fun x s =>
  ⟨decode_addI x, fun fits => ⟨_, exec_addI_of_fits fits, Nat.mod_eq_of_lt (Nat.lt_succ_of_le fits), s.setI_keptBut _⟩,
    exec_addI_of_overflow⟩

end

section
/-! PROOFS. Draws (43_display.md R89 to R93, 95_test_vectors.md S3): which pixels a draw flips, what it reports, and a draw repeated. -/

namespace Sys2Proof.Machine

/-! ### Pixels -/

/-- A pixel changes exactly where the sprite covers it (R87). -/
theorem drawSprite_flips_iff (g : Grid) (rows : List Byte) (y0 x0 : Nat) (r : Fin 32) (c : Fin 64) :
    (drawSprite g rows y0 x0)[r.val][c.val] ≠ g[r.val][c.val] ↔ spriteCovers rows y0 x0 r.val c.val = true := by
  rw [drawSprite_pixel]
  cases g[r.val][c.val] <;> simp

/-- A draw turns a pixel on exactly where the sprite covers it and it was off. -/
theorem drawSprite_turnsOn_iff (g : Grid) (rows : List Byte) (y0 x0 : Nat) (r : Fin 32) (c : Fin 64) :
    (g[r.val][c.val] = false ∧ (drawSprite g rows y0 x0)[r.val][c.val] = true) ↔
      (spriteCovers rows y0 x0 r.val c.val = true ∧ (drawSprite g rows y0 x0)[r.val][c.val] = true) := by
  rw [drawSprite_pixel]
  cases g[r.val][c.val] <;> simp

theorem Grid.ext_pixels {g h : Grid} (same : ∀ (r : Fin 32) (c : Fin 64), g[r.val][c.val] = h[r.val][c.val]) : g = h :=
  Vector.ext fun r hr => Vector.ext fun c hc => same ⟨r, hr⟩ ⟨c, hc⟩

/-- XOR undoes itself: the same sprite drawn again restores the grid. -/
theorem drawSprite_drawSprite (g : Grid) (rows : List Byte) (y0 x0 : Nat) :
    drawSprite (drawSprite g rows y0 x0) rows y0 x0 = g := by
  refine Grid.ext_pixels fun r c => ?_
  rw [drawSprite_pixel, drawSprite_pixel, Bool.xor_assoc, Bool.xor_self, Bool.xor_false]

/-- The sprite without rows covers nothing. -/
theorem spriteCovers_nil (y0 x0 row col : Nat) : spriteCovers [] y0 x0 row col = false := by
  rw [← Bool.not_eq_true]
  intro covered
  simp only [spriteCovers, Bool.and_eq_true, decide_eq_true_eq, List.length_nil] at covered
  omega

theorem drawSprite_nil (g : Grid) (y0 x0 : Nat) : drawSprite g [] y0 x0 = g := by
  refine Grid.ext_pixels fun r c => ?_
  rw [drawSprite_pixel, spriteCovers_nil, Bool.xor_false]

theorem flagOf_eq_one_iff (c : Bool) : flagOf c = 1 ↔ c = true := by
  cases c <;> decide

/-! ### Execution -/

/-- A draw whose bytes lie in memory completes (R35, R89). -/
theorem exec_drw_completes {s : State} (x y : RegIx) {n : Nat} (h : n = 0 ∨ s.i.toNat + n ≤ 0x1000) :
    ∃ t, exec (.drw x y n) s = .next t :=
  ⟨_, withRange_inside h s _⟩

/-- A draw marks the display changed when a set bit of its sprite is on the screen (R92). -/
theorem changed_of_exec_drw {x y : RegIx} {n : Nat} {s t : State} (h : exec (.drw x y n) s = .next t) :
    t.changed = (s.changed || spriteTouches (s.readBytes s.i.toNat n) (s.spriteY y) (s.spriteX x)) := by
  rw [exec_drw] at h
  obtain ⟨-, drawn⟩ := withRange_next h
  cases drawn
  rw [State.setV_changed, State.setDisplay_changed]

/-- After a draw whose coordinates are not in `VF`, the same draw reads the same sprite at the same place. -/
theorem sprite_kept_of_exec_drw {x y : RegIx} {n : Nat} {s t : State} (hx : x ≠ 15) (hy : y ≠ 15)
    (h : exec (.drw x y n) s = .next t) :
    t.i = s.i ∧ t.readBytes t.i.toNat n = s.readBytes s.i.toNat n ∧ t.spriteY y = s.spriteY y ∧ t.spriteX x = s.spriteX x := by
  have index : t.i = s.i := exec_keptBut h .index (by simp [Instr.writes])
  have memory : ∀ a, t.readByte a = s.readByte a := exec_keptBut h .memory (by simp [Instr.writes])
  have register : ∀ r : RegIx, r ≠ 15 → t.getV r = s.getV r := fun r other => exec_keeps_getV h (beq_eq_false_iff_ne.2 other)
  refine ⟨index, ?_, ?_, ?_⟩
  · simp only [State.readBytes, memory, index]
  · rw [State.spriteY, register y hy, State.spriteY]
  · rw [State.spriteX, register x hx, State.spriteX]

end Sys2Proof.Machine

open Sys2Proof Sys2Proof.Machine

/-- Settles O34: the flipped pixels are the covered ones, and the sprite read from `I` covers what its set bits land on. -/
theorem drawFlipsTheCoveredPixels : Obligations.DrawFlipsTheCoveredPixels := by
  intro x y n s hn
  refine ⟨decode_drw x y hn, fun inside => ?_, fun positive outside => withRange_outside (by omega) outside s _⟩
  obtain ⟨t, completes⟩ := exec_drw_completes x y inside
  obtain ⟨drawn, -⟩ := disp_and_flag_of_exec_drw completes
  refine ⟨_, completes, fun r c => ?_, fun r other => exec_keeps_getV completes (beq_eq_false_iff_ne.2 other), exec_keptBut completes⟩
  rw [drawn]
  exact (drawSprite_flips_iff _ _ _ _ r c).trans (spriteCovers_readBytes_iff s n _ _ r.val c.val)

/-- Settles O36: a draw touches a pixel exactly when it flips one. -/
theorem drawMarksChangedOnAFlip : Obligations.DrawMarksChangedOnAFlip := by
  intro x y n s t h
  obtain ⟨drawn, -⟩ := disp_and_flag_of_exec_drw h
  rw [changed_of_exec_drw h, drawn, Bool.or_eq_true, spriteTouches_iff]
  simp only [drawSprite_flips_iff]

/-- Settles O37: the second draw XORs the same pixels, and it hits those that the first one turned on. -/
theorem drawTwiceRestoresTheDisplay : Obligations.DrawTwiceRestoresTheDisplay := by
  intro x y n s t hx hy first
  obtain ⟨drawn, -⟩ := disp_and_flag_of_exec_drw first
  obtain ⟨index, sprite, row, column⟩ := sprite_kept_of_exec_drw hx hy first
  have inside : n = 0 ∨ t.i.toNat + n ≤ 0x1000 := index ▸ (withRange_next first).1
  obtain ⟨u, second⟩ := exec_drw_completes x y inside
  obtain ⟨drawnTwice, hit⟩ := disp_and_flag_of_exec_drw second
  rw [sprite, row, column] at drawnTwice hit
  refine ⟨_, second, ?_, ?_⟩
  · rw [drawnTwice, drawn, drawSprite_drawSprite]
  · rw [hit, flagOf_eq_one_iff, spriteHits_iff, drawn]
    simp only [drawSprite_turnsOn_iff]

/-- Settles O38: no byte is read, so no range is checked, and the empty sprite covers no pixel. -/
theorem emptySpriteDrawsNothing : Obligations.EmptySpriteDrawsNothing := by
  intro x y s
  obtain ⟨t, completes⟩ := exec_drw_completes (s := s) x y (n := 0) (.inl rfl)
  obtain ⟨drawn, hit⟩ := disp_and_flag_of_exec_drw completes
  have noByte : s.readBytes s.i.toNat 0 = [] := rfl
  have noHit : spriteHits s.disp [] (s.spriteY y) (s.spriteX x) = false := rfl
  have noTouch : spriteTouches [] (s.spriteY y) (s.spriteX x) = false := rfl
  have display : Kept .display s t := by
    refine ⟨drawn.trans ?_, (changed_of_exec_drw completes).trans ?_⟩
    · rw [noByte, drawSprite_nil]
    · rw [noByte, noTouch, Bool.or_false]
  refine ⟨t, completes, ?_, fun r other => exec_keeps_getV completes (beq_eq_false_iff_ne.2 other),
    (exec_keptBut completes).drop display (by simp [Instr.writes])⟩
  rw [hit, noByte, noHit]
  rfl

end

section
/-! PROOFS. Stored bytes read back, and the host's operations (20_memory.md, 42_index_memory.md R85, R86; 60_exceptions.md R112;
70_reset_and_hazards.md R123 to R128). -/

namespace Sys2Proof.Machine

/-! ### The fetched word -/

/-- Below `0xFFF` the fetch is the decoding of the word at `pc` (R47, R53). -/
theorem fetchDecode_of_inside {s : State} (h : s.pc.toNat ≤ 0xFFE) :
    fetchDecode s = (decode s.fetchWord).mapError fun _ => .unknownOpcode s.pc s.fetchWord := by
  cases decoded : decode s.fetchWord with
  | ok i => exact (fetchDecode_ok_iff s i).2 ⟨h, decoded⟩
  | error r => exact (fetchDecode_error_iff s _).2 (.inr ⟨h, ⟨r, decoded⟩, rfl⟩)

/-- Two bytes stored at `pc` are the big-endian word that is fetched (R38). -/
theorem State.fetchWord_writeByte_writeByte (s : State) (hi lo : Byte) :
    ((s.writeByte s.pc.toNat hi).writeByte (s.pc.toNat + 1) lo).fetchWord = wordOfBytes hi lo := by
  simp [fetchWord]

/-! ### Timers -/

/-- A timer that one call counts down is `n` less after `n` calls, floored at 0 (R112). -/
theorem toNat_timer_updateTimers_iterate {timer : State → Byte}
    (counts : ∀ s : State, (timer s.updateTimers).toNat = (timer s).toNat - 1) (n : Nat) (s : State) :
    (timer (State.updateTimers^[n] s)).toNat = (timer s).toNat - n := by
  induction n with
  | zero => rfl
  | succ n ih => rw [Function.iterate_succ_apply', counts, ih, Nat.sub_sub]

/-! ### `init` and the ROM -/

/-- After `init` every address reads as its reset contents (R30). -/
theorem State.readByte_init (cfg : Config) (a : Nat) : (State.init cfg).readByte a = unlisted cfg.font a := rfl

theorem State.readByte_reinit (s : State) (a : Nat) : s.reinit.readByte a = (State.init s.cfg).readByte a := rfl

/-- Writing a ROM changes memory and `rom_image` alone: with both put back, the state is as before (R125). -/
theorem State.writeRom_restored (s : State) (bytes : List Byte) (image : Option (List Byte)) :
    { { s.writeBytes 0x200 bytes with romImage := image } with mem := s.mem, romImage := s.romImage } = s := by
  rw [State.writeBytes_eq]

/-- What `reset` leaves, but for memory, `rom_image` and the count of draws, is what `init` leaves (R127). -/
theorem State.doReset_values (s : State) :
    { s.doReset with mem := [], romImage := (State.init s.cfg).romImage, draws := 0 } = State.init s.cfg := by
  cases retains : s.cfg.resetRetainsRom with
  | true => rw [State.doReset_of_retains retains, State.writeBytes_eq]; rfl
  | false => rw [State.doReset_of_not_retains retains]; rfl

end Sys2Proof.Machine

open Sys2Proof Sys2Proof.Machine

/-- Settles O48: the fetch decodes the word at `pc`, and that is the word of the two bytes. -/
theorem fetchSeesTheStoredWord : Obligations.FetchSeesTheStoredWord := by
  intro s hi lo inside
  rw [fetchDecode_of_inside, s.fetchWord_writeByte_writeByte, wordOfBytes]
  · cases decode (BitVec.ofNat 16 (hi.toNat * 256 + lo.toNat)) <;> rfl
  · exact inside

/-- Settles O32: memory after the store is what the load reads, and neither wiped registers nor `I` are part of it. -/
theorem loadRestoresStoredRegisters : Obligations.LoadRestoresStoredRegisters := by
  intro x s inside
  obtain ⟨-, stores, -⟩ := registersStored x s
  obtain ⟨t, stored, bytes, -, -, -⟩ := stores inside
  obtain ⟨-, loads, -⟩ := registersLoaded x { t with i := s.i, v := Vector.replicate 16 0 }
  obtain ⟨u, loaded, registers, -, -⟩ := loads inside
  refine ⟨t, u, stored, loaded, fun j hj => ?_⟩
  rw [registers j, if_pos hj]
  exact bytes j hj

/-- Settles O50: `n` countdowns take `n`, floored at 0, and `LD Vx, DT` reads the one timer and keeps the other. -/
theorem timersAfterManyUpdates : Obligations.TimersAfterManyUpdates := by
  intro n x s
  have delay := toNat_timer_updateTimers_iterate (timer := State.dt) (fun s => toNat_countDown s.dt) n s
  have sound := toNat_timer_updateTimers_iterate (timer := State.st) (fun s => toNat_countDown s.st) n s
  refine ⟨_, exec_ldVxDT x _, ?_, sound⟩
  rw [State.getV_setV, if_pos rfl, delay]

/-- Settles O53: a ROM that fits is stored byte by byte from `0x200`; a longer one enters Faulted. -/
theorem loadRomCopiesOrFaults : Obligations.LoadRomCopiesOrFaults := by
  intro s residue bytes
  refine ⟨fun fits => ?_, fun tooLong => by rw [State.loadRom_of_too_long residue tooLong]; rfl⟩
  rw [State.loadRom_of_fits residue fits]
  exact ⟨fun j inside => s.readByte_writeBytes_add 0x200 inside, s.memoryKeptOutside_writeBytes 0x200 bytes, rfl,
    s.writeRom_restored bytes _⟩

/-- Settles O54: the values are read off `State.init`; memory reads as its reset contents. -/
theorem initValues : Obligations.InitValues := by
  intro cfg
  refine ⟨rfl, rfl, rfl, rfl, rfl, rfl, rfl, rfl, rfl, rfl, fun r => ?_, fun j => ?_, Grid.getElem_blank,
    fun k => ⟨?_, ?_⟩, fun a => dif_pos a.isLt, fun a outside => dif_neg (Nat.not_lt.2 outside)⟩
  · exact Vector.getElem_replicate r.isLt
  · exact Vector.getElem_replicate j.isLt
  · exact Vector.getElem_replicate k.isLt
  · exact Vector.getElem_replicate k.isLt

/-- Settles O55: `reset` is `init`, with the kept ROM stored over it where it is retained. -/
theorem resetGivesInitValues : Obligations.ResetGivesInitValues := by
  intro s data
  obtain ⟨-, image, -⟩ := (State.dataWf_iff s).1 data
  refine ⟨fun bytes kept => ?_, fun dropped a => ?_, ?_, s.doReset_values⟩
  · rw [State.doReset_of_retains (image bytes kept).1, kept]
    exact ⟨fun j inside => State.readByte_writeBytes_add _ 0x200 inside, s.reinit.memoryKeptOutside_writeBytes 0x200 bytes⟩
  · rw [State.doReset_of_not_retains dropped, State.readByte_reinit]
  · cases retains : s.cfg.resetRetainsRom with
    | true => rw [State.doReset_of_retains retains]
    | false =>
      have none_kept : s.romImage = none := by
        cases kept : s.romImage with
        | none => rfl
        | some bytes => exact absurd ((image bytes kept).1.symm.trans retains) (by simp)
      have reinit_image : s.reinit.romImage = none := if_neg (by simp [retains])
      rw [State.doReset_of_not_retains retains, reinit_image, none_kept]

end

section
/-! PROOFS. The keypad (44_keypad_timer.md R94, R95, R97 to R99, 95_test_vectors.md S4): the key tests, the outcomes of the key wait, and a
press and a release through it. -/

namespace Sys2Proof.Machine

/-! ### The key wait without a press -/

/-- With no press, the lowest released key completes the wait where the latch lets it (R99, D10, D11). -/
theorem exec_ldVxK_of_released {s : State} {k : Fin 16} (x : RegIx) (noPress : ∀ j, ¬ Pressed s j) (released : Released s k)
    (lowest : ∀ j, j < k → ¬ Released s j) (open_gate : s.cfg.keywaitLatchGates = false ∨ s.kwLatch = true) :
    exec (.ldVxK x) s = .next ((s.setV x (trunc8 k.val)).setLatch false) := by
  have unseen : ¬ s.pressSeen = true := fun h => (s.pressSeen_iff.1 h).elim noPress
  have first : s.lowestRelease = some k := (s.lowestRelease_some_iff k).2 ⟨released, lowest⟩
  have passes : (!s.cfg.keywaitLatchGates || s.kwLatch) = true := by simpa using open_gate
  simp only [exec, execLdVxK, if_neg unseen, first, if_pos passes]

/-- With no press, a latch that gates and is not armed turns every release away (R99, D11). -/
theorem exec_ldVxK_of_gated {s : State} (x : RegIx) (noPress : ∀ j, ¬ Pressed s j) (gates : s.cfg.keywaitLatchGates = true)
    (unarmed : s.kwLatch = false) : exec (.ldVxK x) s = .next s.rewind := by
  have unseen : ¬ s.pressSeen = true := fun h => (s.pressSeen_iff.1 h).elim noPress
  have stays : ¬ (!s.cfg.keywaitLatchGates || s.kwLatch) = true := by simp [gates, unarmed]
  simp only [exec, execLdVxK, if_neg unseen, if_neg stays]
  split <;> rfl

/-- The tick of `Fx0A` that a release completes. -/
theorem step_ldVxK_of_released {x : RegIx} {s : State} {k : Fin 16} (hs : s.status = .running)
    (hf : fetchDecode s = .ok (.ldVxK x)) (noPress : ∀ j, ¬ Pressed s j) (released : Released s k)
    (lowest : ∀ j, j < k → ¬ Released s j) (open_gate : s.cfg.keywaitLatchGates = false ∨ s.kwLatch = true) :
    step s = .next ((s.advance.setV x (trunc8 k.val)).setLatch false).snapshotKeys :=
  step_of_exec_next hs hf (exec_ldVxK_of_released (s := s.advance) x noPress released lowest open_gate)

/-! ### Key events between ticks -/

/-- The fetch reads `pc`, memory and the parameters alone. -/
theorem fetchDecode_congr {s t : State} (hpc : t.pc = s.pc) (hmem : t.mem = s.mem) (hcfg : t.cfg = s.cfg) :
    fetchDecode t = fetchDecode s := by
  have bytes := State.readByte_congr hmem hcfg
  simp only [fetchDecode, State.fetchWord, hpc, bytes]

/-- A key event writes `keys_cur` alone. -/
theorem State.setKey_eq (s : State) (k : Int) (b : Bool) : s.setKey k b = { s with keysCur := (s.setKey k b).keysCur } := by
  by_cases valid : 0 ≤ k ∧ k ≤ 15
  · rw [s.setKey_of_valid b valid]
  · rw [s.setKey_of_invalid b valid]

theorem State.keysCur_setKey_fin (s : State) (k j : Fin 16) (b : Bool) :
    (s.setKey k.val b).keysCur[j.val] = if j = k then b else s.keysCur[j.val] := by
  rw [s.keysCur_setKey]
  simp only [Nat.cast_inj, Fin.val_inj]

@[simp] theorem State.setKey_status (s : State) (k : Int) (b : Bool) : (s.setKey k b).status = s.status := by rw [setKey_eq]

@[simp] theorem State.setKey_pc (s : State) (k : Int) (b : Bool) : (s.setKey k b).pc = s.pc := by rw [setKey_eq]

@[simp] theorem State.setKey_keysPrev (s : State) (k : Int) (b : Bool) : (s.setKey k b).keysPrev = s.keysPrev := by rw [setKey_eq]

@[simp] theorem State.setKey_kwLatch (s : State) (k : Int) (b : Bool) : (s.setKey k b).kwLatch = s.kwLatch := by rw [setKey_eq]

theorem fetchDecode_setKey (s : State) (k : Int) (b : Bool) : fetchDecode (s.setKey k b) = fetchDecode s := by
  rw [State.setKey_eq]
  exact fetchDecode_congr rfl rfl rfl

theorem fetchDecode_setLatch (s : State) (b : Bool) : fetchDecode (s.setLatch b) = fetchDecode s := fetchDecode_congr rfl rfl rfl

theorem fetchDecode_snapshotKeys (s : State) : fetchDecode s.snapshotKeys = fetchDecode s := fetchDecode_congr rfl rfl rfl

/-- The tick after the press of a key that was up arms the latch (R98). -/
theorem step_ldVxK_of_keyDown {x : RegIx} {s : State} {k : Fin 16} (hs : s.status = .running)
    (hf : fetchDecode s = .ok (.ldVxK x)) (wasUp : s.keysPrev[k.val] = false) :
    step (s.keyDown k.val) = .next ((s.keyDown k.val).setLatch true).snapshotKeys := by
  refine step_ldVxK_of_pressed ((s.setKey_status _ true).trans hs) ((fetchDecode_setKey s _ true).trans hf) ⟨k, ?_, ?_⟩
  · simp only [State.keyDown, State.setKey_keysPrev, wasUp]
  · rw [State.keyDown, State.keysCur_setKey_fin, if_pos rfl]

/-- The tick after the release of the one key that was down completes the wait, if the latch is armed (R99). -/
theorem step_ldVxK_of_keyUp {x : RegIx} {s : State} {k : Fin 16} (hs : s.status = .running)
    (hf : fetchDecode s = .ok (.ldVxK x)) (only : ∀ j : Fin 16, s.keysCur[j.val] = decide (j = k))
    (snapshot : s.keysPrev = s.keysCur) (armed : s.kwLatch = true) :
    step (s.keyUp k.val) = .next (((s.keyUp k.val).advance.setV x (trunc8 k.val)).setLatch false).snapshotKeys := by
  have before : ∀ j : Fin 16, (s.keyUp k.val).keysPrev[j.val] = decide (j = k) := fun j => by
    simp only [State.keyUp, State.setKey_keysPrev, snapshot, only]
  have after : ∀ j : Fin 16, (s.keyUp k.val).keysCur[j.val] = false := fun j => by
    rw [State.keyUp, State.keysCur_setKey_fin, only]
    by_cases same : j = k <;> simp [same]
  refine step_ldVxK_of_released ((s.setKey_status _ false).trans hs) ((fetchDecode_setKey s _ false).trans hf) ?_ ?_ ?_
    (.inr ((s.setKey_kwLatch _ false).trans armed))
  · rintro j ⟨-, down⟩
    exact Bool.false_ne_true ((after j).symm.trans down)
  · exact ⟨(before k).trans (decide_eq_true rfl), after k⟩
  · rintro j lower ⟨wasDown, -⟩
    exact absurd (of_decide_eq_true ((before j).symm.trans wasDown)) (ne_of_lt lower)

end Sys2Proof.Machine

open Sys2Proof Sys2Proof.Machine

/-- Settles O39: with a key in `Vx` both are a skip, on its state and on the negation; without one both fault. -/
theorem skipsOnKey : Obligations.SkipsOnKey := by
  intro x s
  refine ⟨decode_skp x, decode_sknp x, fun key => ⟨⟨_, exec_skp_of_key key, s.skipIf_pc _, s.skipIf_keptBut _⟩,
    ⟨_, exec_sknp_of_key key, ?_, s.skipIf_keptBut _⟩⟩, fun noKey => ⟨exec_skp_of_no_key noKey, exec_sknp_of_no_key noKey⟩⟩
  rw [State.skipIf_pc]
  cases s.keysCur[(s.getV x).toNat] <;> rfl

/-- Settles O41: one lemma per outcome; the frames are those of the writes each outcome makes. -/
theorem keyWaitOutcomes : Obligations.KeyWaitOutcomes := by
  intro x s
  refine ⟨decode_ldVxK x, fun pressed => ?_, fun k noPress released lowest open_gate => ?_, fun noPress stays => ?_⟩
  · refine ⟨_, exec_ldVxK_of_pressed x pressed, rfl, rfl, ?_⟩
    exact ((s.setLatch_keptBut true).trans (State.setPc_keptBut _ _)).mono (by decide)
  · refine ⟨_, exec_ldVxK_of_released x noPress released lowest open_gate, ?_, fun r other => ?_, rfl,
      (s.setV_keptBut x _).trans (State.setLatch_keptBut _ false)⟩
    · rw [State.getV_setLatch, State.getV_setV, if_pos rfl]
      exact toNat_trunc8_of_lt (by omega)
    · rw [State.getV_setLatch, State.getV_setV, if_neg other]
  · have blocked : exec (.ldVxK x) s = .next s.rewind := by
      rcases stays with noRelease | ⟨gates, unarmed⟩
      · exact exec_ldVxK_of_no_edge x noPress noRelease
      · exact exec_ldVxK_of_gated x noPress gates unarmed
    exact ⟨_, blocked, rfl, s.setPc_keptBut _⟩

/-- Settles O43: the press is seen by the first tick, which arms the latch and takes the snapshot; the release, alone in that snapshot,
is seen by the second, and the armed latch lets it through. -/
theorem pressThenReleaseCompletesTheWait : Obligations.PressThenReleaseCompletesTheWait := by
  intro x k s r1 r2 running fetched curUp prevUp
  have wasUp : ∀ j : Fin 16, s.keysPrev[j.val] = false := fun j => by simp [prevUp]
  have pressed : (s.keyDown k.val).tick r1 = ((s.keyDown k.val).setLatch true).snapshotKeys :=
    State.tick_of_next r1 (step_ldVxK_of_keyDown running fetched (wasUp k))
  have running' : (s.keyDown k.val).status = .running := (s.setKey_status _ true).trans running
  have fetched' : fetchDecode ((s.keyDown k.val).setLatch true).snapshotKeys = .ok (.ldVxK x) := by
    rw [fetchDecode_snapshotKeys, fetchDecode_setLatch, State.keyDown, fetchDecode_setKey, fetched]
  have onlyDown : ∀ j : Fin 16, (s.keyDown k.val).keysCur[j.val] = decide (j = k) := fun j => by
    rw [State.keyDown, State.keysCur_setKey_fin, curUp]
    by_cases same : j = k <;> simp [same]
  have released := State.tick_of_next r2
    (step_ldVxK_of_keyUp (s := ((s.keyDown k.val).setLatch true).snapshotKeys) running' fetched' onlyDown rfl rfl)
  intro t u
  have afterPress : t = ((s.keyDown k.val).setLatch true).snapshotKeys := pressed
  have afterRelease : u = (t.keyUp k.val).tick r2 := rfl
  rw [afterRelease, afterPress, released]
  have value : (trunc8 k.val).toNat = k.val := toNat_trunc8_of_lt (by omega)
  simp [State.keyDown, State.keyUp, running, value]

end

section
/-! PROOFS. What an instruction does not observe (10_state.md R20, R27): two runs, from states that differ in the latch or in stale stack
entries. -/

namespace Sys2Proof.Machine

/-! ### Two outcomes -/

/-- The next state under `f`; a fault or a refusal as it is. -/
def mapNext (f : State → State) : Host.Outcome State Fault Refusal → Host.Outcome State Fault Refusal
  | .next t => .next (f t)
  | .fault g => .fault g
  | .refused r => .refused r

/-- Next states that `R` relates, or the same fault or refusal. -/
def SameOutcome (R : State → State → Prop) (o o' : Host.Outcome State Fault Refusal) : Prop :=
  match o with
  | .next t => ∃ t', o' = .next t' ∧ R t t'
  | .fault f => o' = .fault f
  | .refused r => o' = .refused r

theorem SameOutcome.of_mapNext {R : State → State → Prop} {f : State → State} {o o' : Host.Outcome State Fault Refusal}
    (h : o' = mapNext f o) (hR : ∀ t, o = .next t → R t (f t)) : SameOutcome R o o' := by
  subst h
  cases o with
  | next t => exact ⟨f t, rfl, hR t rfl⟩
  | fault g => rfl
  | refused r => rfl

theorem SameOutcome.of_next {R : State → State → Prop} {o o' : Host.Outcome State Fault Refusal} {t t' : State} (h : o = .next t)
    (h' : o' = .next t') (hR : R t t') : SameOutcome R o o' := by
  subst h
  exact ⟨t', h', hR⟩

theorem SameOutcome.of_fault {R : State → State → Prop} {o o' : Host.Outcome State Fault Refusal} {f : Fault} (h : o = .fault f)
    (h' : o' = .fault f) : SameOutcome R o o' := by
  subst h
  exact h'

/-! ### The latch and the stack are passed through -/

/-- The state with another latch and other stack entries. -/
def State.withHidden (s : State) (latch : Bool) (entries : Vector Word 16) : State := { s with kwLatch := latch, stack := entries }

theorem State.writeBytes_withHidden (s : State) (latch : Bool) (entries : Vector Word 16) (a : Nat) (bs : List Byte) :
    (s.withHidden latch entries).writeBytes a bs = (s.writeBytes a bs).withHidden latch entries := by
  induction bs generalizing s a with
  | nil => rfl
  | cons b bs ih => exact ih (s.writeByte a b) (a + 1)

/-- The range check looks at neither, and the range fault records neither. -/
theorem withRange_withHidden (a n : Nat) (s : State) {t t' : State} {latch : Bool} {entries : Vector Word 16}
    (ht : t' = t.withHidden latch entries) :
    withRange a n (s.withHidden latch entries) (.next t') = mapNext (·.withHidden latch entries) (withRange a n s (.next t)) := by
  subst ht
  rcases withRange_cases a n s (.next t) with ⟨inside, completes⟩ | ⟨nonempty, outside, faults⟩
  · rw [completes, withRange_inside inside]
    rfl
  · rw [faults, withRange_outside nonempty outside]
    rfl

/-- An instruction that writes neither the latch nor the stack reads neither: it runs with any values there, and leaves them. -/
theorem exec_withHidden {i : Instr} (noLatch : Part.latch ∉ i.writes) (noStack : Part.stack ∉ i.writes) (s : State) (latch : Bool)
    (entries : Vector Word 16) :
    exec i (s.withHidden latch entries) = mapNext (·.withHidden latch entries) (exec i s) := by
  cases i with
  | ret | call nnn => exact absurd (by simp [Instr.writes]) noStack
  | ldVxK x => exact absurd (by simp [Instr.writes]) noLatch
  | drw x y n => exact withRange_withHidden s.i.toNat n s rfl
  | ldB x => exact withRange_withHidden s.i.toNat 3 s (s.writeBytes_withHidden latch entries _ _)
  | storeRegs x =>
    exact withRange_withHidden s.i.toNat (x.val + 1) s (congrArg (State.setI · _) (s.writeBytes_withHidden latch entries _ _))
  | loadRegs x => exact withRange_withHidden s.i.toNat (x.val + 1) s rfl
  | skp x =>
    rcases Nat.lt_or_ge (s.getV x).toNat 16 with key | noKey
    · rw [exec_skp_of_key key, exec_skp_of_key (s := s.withHidden latch entries) key]
      rfl
    · rw [exec_skp_of_no_key noKey, exec_skp_of_no_key (s := s.withHidden latch entries) noKey]
      rfl
  | sknp x =>
    rcases Nat.lt_or_ge (s.getV x).toNat 16 with key | noKey
    · rw [exec_sknp_of_key key, exec_sknp_of_key (s := s.withHidden latch entries) key]
      rfl
    · rw [exec_sknp_of_no_key noKey, exec_sknp_of_no_key (s := s.withHidden latch entries) noKey]
      rfl
  | addI x =>
    rcases Nat.lt_or_ge 0xFFFF (s.i.toNat + (s.getV x).toNat) with overflow | fits
    · rw [exec_addI_of_overflow overflow, exec_addI_of_overflow (s := s.withHidden latch entries) overflow]
      rfl
    · rw [exec_addI_of_fits fits, exec_addI_of_fits (s := s.withHidden latch entries) fits]
      rfl
  | _ => rfl

/-! ### The latch without its gate -/

/-- The two states differ at most in the latch. -/
def SameButLatch (t t' : State) : Prop := ∃ c, t' = { t with kwLatch := c }

/-- Above 15 frames there is no entry to pop (log entry 5). -/
theorem exec_ret_of_illegal {s : State} (h : 15 < s.sp.toNat) : exec .ret s = .fault (.illegalStackPointer (s.pc - 2) s.sp) := by
  have nonzero : s.sp ≠ 0 := fun zero => absurd (congrArg BitVec.toNat zero) (Nat.ne_of_gt (Nat.zero_lt_of_lt h))
  have noEntry : s.popReturn = none := dif_neg (by omega)
  simp only [exec, execRet, if_neg nonzero, noEntry]
  rfl

theorem exec_call_of_illegal {s : State} (nnn : Addr) (h : 15 < s.sp.toNat) :
    exec (.call nnn) s = .fault (.illegalStackPointer (s.pc - 2) s.sp) := by
  have notFull : s.sp ≠ 15 := fun full => absurd (congrArg BitVec.toNat full) (Nat.ne_of_gt h)
  have noEntry : s.pushCall (zextAddr nnn) = none := dif_neg (by omega)
  simp only [exec, execCall, if_neg notFull, noEntry]
  rfl

theorem exec_ret_sameButLatch (s : State) (b : Bool) : SameOutcome SameButLatch (exec .ret s) (exec .ret (s.setLatch b)) := by
  rcases Nat.lt_or_ge 15 s.sp.toNat with illegal | legal
  · exact .of_fault (exec_ret_of_illegal illegal) (exec_ret_of_illegal (s := s.setLatch b) illegal)
  · by_cases zero : s.sp = 0
    · exact .of_fault (exec_ret_of_sp_eq_zero zero) (exec_ret_of_sp_eq_zero (s := s.setLatch b) zero)
    · have inside : s.sp.toNat < 16 := by omega
      exact .of_next (exec_ret_of_inside zero inside) (exec_ret_of_inside (s := s.setLatch b) zero inside) ⟨b, rfl⟩

theorem exec_call_sameButLatch (nnn : Addr) (s : State) (b : Bool) :
    SameOutcome SameButLatch (exec (.call nnn) s) (exec (.call nnn) (s.setLatch b)) := by
  rcases Nat.lt_trichotomy s.sp.toNat 15 with room | full | illegal
  · exact .of_next (exec_call_of_lt nnn room) (exec_call_of_lt (s := s.setLatch b) nnn room) ⟨b, rfl⟩
  · have full' : s.sp = 15 := BitVec.eq_of_toNat_eq full
    exact .of_fault (exec_call_of_sp_eq_15 nnn full') (exec_call_of_sp_eq_15 (s := s.setLatch b) nnn full')
  · exact .of_fault (exec_call_of_illegal nnn illegal) (exec_call_of_illegal (s := s.setLatch b) nnn illegal)

/-- Without the gate the key wait writes the latch and does not read it (D11). -/
theorem exec_ldVxK_sameButLatch (x : RegIx) {s : State} (ungated : s.cfg.keywaitLatchGates = false) (b : Bool) :
    SameOutcome SameButLatch (exec (.ldVxK x) s) (exec (.ldVxK x) (s.setLatch b)) := by
  by_cases pressed : ∃ k, Pressed s k
  · exact .of_next (exec_ldVxK_of_pressed x pressed) (exec_ldVxK_of_pressed (s := s.setLatch b) x pressed) ⟨true, rfl⟩
  · have noPress := not_exists.1 pressed
    cases release : s.lowestRelease with
    | some k =>
      obtain ⟨released, lowest⟩ := (s.lowestRelease_some_iff k).1 release
      exact .of_next (exec_ldVxK_of_released x noPress released lowest (.inl ungated))
        (exec_ldVxK_of_released (s := s.setLatch b) x noPress released lowest (.inl ungated)) ⟨false, rfl⟩
    | none =>
      have noRelease := s.lowestRelease_none_iff.1 release
      exact .of_next (exec_ldVxK_of_no_edge x noPress noRelease)
        (exec_ldVxK_of_no_edge (s := s.setLatch b) x noPress noRelease) ⟨b, rfl⟩

theorem exec_sameButLatch (i : Instr) {s : State} (ungated : s.cfg.keywaitLatchGates = false) (b : Bool) :
    SameOutcome SameButLatch (exec i s) (exec i (s.setLatch b)) := by
  cases i with
  | ret => exact exec_ret_sameButLatch s b
  | call nnn => exact exec_call_sameButLatch nnn s b
  | ldVxK x => exact exec_ldVxK_sameButLatch x ungated b
  | _ =>
    refine .of_mapNext (exec_withHidden (by simp [Instr.writes]) (by simp [Instr.writes]) s b s.stack) fun t completes => ?_
    have stack_eq : t.stack = s.stack := (exec_keptBut completes .stack (by simp [Instr.writes])).2
    exact ⟨b, by rw [← stack_eq]; rfl⟩

/-! ### Stale stack entries -/

/-- A state that differs only in stale entries is the first with another stack. -/
theorem eq_of_sameButStaleStack {s s' : State} (h : SameButStaleStack s s') : s' = { s with stack := s'.stack } := by
  obtain ⟨-, rest⟩ := h
  calc s' = { { s' with stack := s.stack } with stack := s'.stack } := rfl
    _ = { s with stack := s'.stack } := by rw [rest]

/-- The active entries of two stacks agree. -/
def ActiveAgree (sp : Nat) (entries entries' : Vector Word 16) : Prop :=
  ∀ j : Fin 16, 0 < j.val → j.val ≤ sp → entries'[j.val] = entries[j.val]

theorem exec_ret_sameButStaleStack {s : State} {entries : Vector Word 16} (hsp : s.sp.toNat ≤ 15)
    (agree : ActiveAgree s.sp.toNat s.stack entries) :
    SameOutcome SameButStaleStack (exec .ret s) (exec .ret { s with stack := entries }) := by
  by_cases zero : s.sp = 0
  · exact .of_fault (exec_ret_of_sp_eq_zero zero) (exec_ret_of_sp_eq_zero (s := { s with stack := entries }) zero)
  · have inside : s.sp.toNat < 16 := by omega
    have positive : 0 < s.sp.toNat := Nat.pos_of_ne_zero fun toNat_zero => zero (BitVec.eq_of_toNat_eq toNat_zero)
    have popped : entries[s.sp.toNat] = s.stack[s.sp.toNat] := agree ⟨_, inside⟩ positive le_rfl
    have sp_eq : (s.sp - 1).toNat = s.sp.toNat - 1 := BitVec.toNat_sub_of_le positive
    refine .of_next (exec_ret_of_inside zero inside) (exec_ret_of_inside (s := { s with stack := entries }) zero inside)
      ⟨fun j j_pos j_le => agree j j_pos ?_, ?_⟩
    · exact (j_le.trans_eq sp_eq).trans (Nat.sub_le _ _)
    · simp only [popped]

theorem exec_call_sameButStaleStack (nnn : Addr) {s : State} {entries : Vector Word 16} (hsp : s.sp.toNat ≤ 15)
    (agree : ActiveAgree s.sp.toNat s.stack entries) :
    SameOutcome SameButStaleStack (exec (.call nnn) s) (exec (.call nnn) { s with stack := entries }) := by
  rcases Nat.lt_or_eq_of_le hsp with room | full
  · refine .of_next (exec_call_of_lt nnn room) (exec_call_of_lt (s := { s with stack := entries }) nnn room)
      ⟨fun j j_pos j_le => ?_, rfl⟩
    have j_le' : j.val ≤ s.sp.toNat + 1 := j_le.trans_eq (toNat_sp_add_one room)
    change (entries.set (s.sp.toNat + 1) s.pc)[j.val] = (s.stack.set (s.sp.toNat + 1) s.pc)[j.val]
    rw [Vector.getElem_set, Vector.getElem_set]
    split
    · rfl
    · exact agree j j_pos (by omega)
  · have full' : s.sp = 15 := BitVec.eq_of_toNat_eq full
    exact .of_fault (exec_call_of_sp_eq_15 nnn full') (exec_call_of_sp_eq_15 (s := { s with stack := entries }) nnn full')

/-- The key wait passes the stack through. -/
theorem exec_ldVxK_passes_stack (x : RegIx) (s : State) (entries : Vector Word 16) :
    exec (.ldVxK x) { s with stack := entries } = mapNext (fun t => { t with stack := entries }) (exec (.ldVxK x) s) := by
  by_cases pressed : ∃ k, Pressed s k
  · rw [exec_ldVxK_of_pressed x pressed, exec_ldVxK_of_pressed (s := { s with stack := entries }) x pressed]
    rfl
  · have noPress := not_exists.1 pressed
    cases release : s.lowestRelease with
    | none =>
      have noRelease := s.lowestRelease_none_iff.1 release
      rw [exec_ldVxK_of_no_edge x noPress noRelease, exec_ldVxK_of_no_edge (s := { s with stack := entries }) x noPress noRelease]
      rfl
    | some k =>
      obtain ⟨released, lowest⟩ := (s.lowestRelease_some_iff k).1 release
      by_cases open_gate : s.cfg.keywaitLatchGates = false ∨ s.kwLatch = true
      · rw [exec_ldVxK_of_released x noPress released lowest open_gate,
          exec_ldVxK_of_released (s := { s with stack := entries }) x noPress released lowest open_gate]
        rfl
      · obtain ⟨gates, unarmed⟩ := not_or.1 open_gate
        have gates' := Bool.eq_true_of_not_eq_false gates
        have unarmed' := Bool.eq_false_of_not_eq_true unarmed
        rw [exec_ldVxK_of_gated x noPress gates' unarmed',
          exec_ldVxK_of_gated (s := { s with stack := entries }) x noPress gates' unarmed']
        rfl

/-- An instruction that keeps the stack and passes it through keeps the relation. -/
theorem sameButStaleStack_of_mapNext {i : Instr} {s : State} {entries : Vector Word 16} (noStack : Part.stack ∉ i.writes)
    (agree : ActiveAgree s.sp.toNat s.stack entries)
    (h : exec i { s with stack := entries } = mapNext (fun t => { t with stack := entries }) (exec i s)) :
    SameOutcome SameButStaleStack (exec i s) (exec i { s with stack := entries }) := by
  refine .of_mapNext h fun t completes => ⟨fun j j_pos j_le => ?_, rfl⟩
  obtain ⟨sp_eq, stack_eq⟩ := exec_keptBut completes .stack noStack
  rw [sp_eq] at j_le
  rw [stack_eq]
  exact agree j j_pos j_le

/-- An instruction that writes neither part passes the stack through. -/
theorem exec_passes_stack {i : Instr} (noLatch : Part.latch ∉ i.writes) (noStack : Part.stack ∉ i.writes) (s : State)
    (entries : Vector Word 16) :
    exec i { s with stack := entries } = mapNext (fun t => { t with stack := entries }) (exec i s) := by
  have hidden : exec i { s with stack := entries } = mapNext (·.withHidden s.kwLatch entries) (exec i s) :=
    exec_withHidden noLatch noStack s s.kwLatch entries
  rw [hidden]
  cases outcome : exec i s with
  | next t =>
    have latch_eq : t.kwLatch = s.kwLatch := exec_keptBut outcome .latch noLatch
    simp only [mapNext, State.withHidden, ← latch_eq]
  | fault f => rfl
  | refused r => rfl

theorem exec_sameButStaleStack (i : Instr) {s s' : State} (hsp : s.sp.toNat ≤ 15) (h : SameButStaleStack s s') :
    SameOutcome SameButStaleStack (exec i s) (exec i s') := by
  have agree : ActiveAgree s.sp.toNat s.stack s'.stack := h.1
  rw [eq_of_sameButStaleStack h]
  cases i with
  | ret => exact exec_ret_sameButStaleStack hsp agree
  | call nnn => exact exec_call_sameButStaleStack nnn hsp agree
  | ldVxK x => exact sameButStaleStack_of_mapNext (by simp [Instr.writes]) agree (exec_ldVxK_passes_stack x s s'.stack)
  | _ =>
    exact sameButStaleStack_of_mapNext (by simp [Instr.writes]) agree
      (exec_passes_stack (by simp [Instr.writes]) (by simp [Instr.writes]) s s'.stack)

end Sys2Proof.Machine

open Sys2Proof Sys2Proof.Machine

/-- Settles O44: only the key wait reads the latch, and only through its gate. -/
theorem ungatedLatchIsInvisible : Obligations.UngatedLatchIsInvisible := by
  intro i s b ungated
  have same := exec_sameButLatch i ungated b
  cases outcome : exec i s with
  | next t =>
    rw [outcome] at same
    obtain ⟨t', completes, c, rfl⟩ := same
    exact ⟨c, completes⟩
  | fault f => rw [outcome] at same; exact same
  | refused r => rw [outcome] at same; exact same

/-- Settles O47: only a return reads the stack, at an active entry, and a call writes the entry it makes active. -/
theorem staleStackEntriesAreUnobservable : Obligations.StaleStackEntriesAreUnobservable :=
  fun i _ _ hsp same => exec_sameButStaleStack i hsp same

end
